-- ==== Sys2Proof/Word.lean ====
section
/-! DEFINITION. The block's word types (00_scope.md R7). -/

namespace Sys2Proof

/-- `u8`, an unsigned 8-bit value; bit 0 is the least significant (R7). -/
abbrev Byte := BitVec 8

/-- `u32`, an unsigned 32-bit value (R7). -/
abbrev U32 := BitVec 32

/-- `i16`, a signed 16-bit two's-complement value (R7), read with `BitVec.toInt`. -/
abbrev I16 := BitVec 16

end Sys2Proof
end

