-- ==== Sys2Proof/Config.lean ====
section
/-! DEFINITION. The parameters of R6 that fix the shape of State, and the free values.
The parameters that only enter computations (`PT`, `RESET_MAGIC`, `PHASE_DIV`, ...) stand in
Sys2Proof/Machine/Params.lean under the same `Config` names. -/

namespace Sys2Proof

/-- `NREG`: "a fixed-size sequence of 4 bytes" (R6, R14). -/
abbrev Config.nreg : Nat := 4

/-- `PAYLOAD_MAX`, payload bytes of a write, the index byte not counted (R6, D3).
UNVERIFIED: the spec decides where its source is silent; log 10. -/
abbrev Config.payloadMax : Nat := 4

/-- `CLOCK_BITS`, width of the microsecond clock (R6, R108, D1).
UNVERIFIED: the spec decides where its source is silent; log 10. -/
abbrev Config.clockBits : Nat := 32

/-- `uW`: a value of the microsecond clock, which wraps modulo `2^CLOCK_BITS` (R108). -/
abbrev Clock := BitVec Config.clockBits

/-- `BUS_ADDR`, OPEN: not in the source, read by no rule (R6, D26, U9). Safe; log 18. -/
opaque Config.busAddr : Nat

/-! ### Free values of power-on

R155 and R157 leave these unspecified ("a free input of `POR`"). Each is a constant with no body,
applied to the number of the power-on. DESIGN CHOICE, safe; log 2 and log 3. -/

/-- `respCache` after the `n`-th power-on: any byte (R157, U3). -/
opaque Config.porRespCache (n : Nat) : Byte

/-- `pwmDuty` after the `n`-th power-on: any byte until the first TICK (R157, U3). -/
opaque Config.porPwmDuty (n : Nat) : Byte

/-- `latchedIndex` after the `n`-th power-on (R24, R157). -/
opaque Config.porLatchedIndex (n : Nat) : Byte

/-- `payload` after the `n`-th power-on (R25, R157). -/
opaque Config.porPayload (n : Nat) : Vector Byte Config.payloadMax

/-- `payloadLen` after the `n`-th power-on, in `0..PAYLOAD_MAX` (R25, R157). -/
opaque Config.porPayloadLen (n : Nat) : Fin (Config.payloadMax + 1)

/-- `step` after the `n`-th power-on (R29, R157). -/
opaque Config.porStep (n : Nat) : I16

/-- `next` after the `n`-th power-on (R31, R157). -/
opaque Config.porNext (n : Nat) : Clock

end Sys2Proof
end

