-- ==== Sys2Proof/Machine/Params.lean ====
section
/-! DEFINITION. The parameters of R6 that only enter computations. -/

namespace Sys2Proof

/-- `NPERIOD`: "10 entries", "indices 0-9" (R6). -/
abbrev Config.nperiod : Nat := 10

/-- The Period Table `PT[0..9]`, microseconds, a constant of the block (R6, R27). -/
def Config.periodTable : Vector U32 Config.nperiod :=
  #v[64000, 125000, 250000, 500000, 750000, 1000000, 1500000, 2000000, 3000000, 4000000]

/-- `RESET_MAGIC`: "value 7 is a magic reset trigger" (R6, R16, R100). -/
def Config.resetMagic : Byte := 0x07

/-- `RESET_VECTOR`, the Register File after reset (R6, R83, C1). -/
def Config.resetVector : Vector Byte Config.nreg := #v[0x08, 0x00, 0x06, 0x00]

/-- The period index of the reset vector, `PT[6]` = 1500000 (R30, R155). -/
def Config.resetPeriod : U32 := Config.periodTable[6]

/-- `PULSE_LEVELS`: "16 discrete levels" (R6, R113). -/
def Config.pulseLevels : Nat := 16

/-- `PHASE_DIV`, the divisor of the period in the event intervals (R6, R110; contested, C2, D2).
UNVERIFIED (the spec decides where its source contradicts itself), unsafe for claims about durations; log 11. -/
def Config.phaseDiv : Nat := 4

/-- `RESP_LEN`, bytes of a read response (R6, R76, D4). UNVERIFIED, log 10. -/
def Config.respLen : Nat := 1

end Sys2Proof
end

