-- ==== Sys2Proof/Syntax.lean ====
section
/-! DEFINITION. The block's operations (30_encoding.md R64, spec/opcode_table.json) and the events
that carry them (00_scope.md R8). -/

namespace Sys2Proof

/-- One constructor per row of the opcode table (R64). -/
inductive Instr where
  /-- SEL: select the register for the next read (R92). -/
  | sel (idx : Byte)
  /-- WR with 1 payload byte (R93). -/
  | wr1 (idx p0 : Byte)
  /-- WR with 2 payload bytes (R93). -/
  | wr2 (idx p0 p1 : Byte)
  /-- WR with 3 payload bytes (R93). -/
  | wr3 (idx p0 p1 p2 : Byte)
  /-- WR with 4 payload bytes (R93). -/
  | wr4 (idx p0 p1 p2 p3 : Byte)
  /-- RST: the pattern `00 07`, with the 0 to 3 bytes that follow it (R69, R94). -/
  | rst (extra : List Byte)
  /-- DROP, zero length (R95). -/
  | dropEmpty
  /-- DROP, overlong: 6 bytes or more, all ignored (R96). -/
  | dropOverlong (bytes : List Byte)
  /-- RD: the read request (R97). -/
  | rd
  /-- TICK: one iteration of the idle loop, with its clock sample (R131). -/
  | tick (now : Clock)
  /-- POR: power-on (R155). -/
  | por
  deriving DecidableEq, Repr

/-- The direction of a bus transaction (R59). -/
inductive Direction where
  /-- "write transaction", controller to block -/
  | inbound
  /-- "read transaction", block to controller -/
  | outbound
  deriving DecidableEq, Repr

/-- What the environment can raise (R8). The fifth row of R8's table, the output `pwmDuty`, is a
field of State. -/
inductive Event where
  /-- `RX(bytes)`: an inbound transaction that delivered these bytes, in bus order. -/
  | rx (bytes : List Byte)
  /-- `RQ()`: a read request. -/
  | rq
  /-- `TICK(now)`: one idle-loop iteration with the clock sample `now`. -/
  | tick (now : Clock)
  /-- `POR`: device boot. -/
  | por
  deriving DecidableEq, Repr

end Sys2Proof
end

