-- ==== Sys2Proof/WellFormed.lean ====
section
/-! DEFINITION. Which terms of `Instr` are operations of the block: exactly those some event decodes
to (R61, R63, R69, R70). -/

namespace Sys2Proof

/-- Why a term is no operation of the block, one name per check. -/
inductive IllFormed where
  /-- a WR whose index is `0x00` and first payload byte `0x07`: those bytes are RST (R69) -/
  | resetPatternInWrite
  /-- an RST with more than `PAYLOAD_MAX - 1` trailing bytes: that length is DROP (R61, R70) -/
  | resetTooLong
  /-- an overlong DROP with fewer than 6 bytes: that length is SEL, WR, RST or the empty DROP (R70) -/
  | dropTooShort
  deriving DecidableEq, Repr

/-- The two-byte pattern that selects RST (R69): the whole bytes are compared (D5). -/
abbrev resetPattern (idx p0 : Byte) : Prop := idx = 0x00 ∧ p0 = 0x07

/-- The first check a term fails, if any. -/
def Instr.illFormed? : Instr → Option IllFormed
  | .sel _ => none
  | .wr1 idx p0 => if resetPattern idx p0 then some .resetPatternInWrite else none
  | .wr2 idx p0 _ => if resetPattern idx p0 then some .resetPatternInWrite else none
  | .wr3 idx p0 _ _ => if resetPattern idx p0 then some .resetPatternInWrite else none
  | .wr4 idx p0 _ _ _ => if resetPattern idx p0 then some .resetPatternInWrite else none
  | .rst extra => if extra.length + 1 ≤ Config.payloadMax then none else some .resetTooLong
  | .dropEmpty => none
  | .dropOverlong bytes =>
    if 1 + Config.payloadMax < bytes.length then none else some .dropTooShort
  | .rd => none
  | .tick _ => none
  | .por => none

/-- The term is an operation of the block. -/
abbrev Instr.WellFormed (i : Instr) : Prop := i.illFormed? = none

end Sys2Proof
end

