-- ==== Sys2Proof/Decode.lean ====
section
/-! DEFINITION. The decoder of R63, total on any transaction, and the encoder beside it (R60 to R62). -/

namespace Sys2Proof

/-- R63 for an inbound transaction. The length decides the class (R73); the bytes decide only RST
against WR (R69). Nothing is rejected: a malformed length is DROP (R70). -/
def decodeInbound : List Byte → Instr
  | [] => .dropEmpty
  | [idx] => .sel idx
  | [idx, p0] => if resetPattern idx p0 then .rst [] else .wr1 idx p0
  | [idx, p0, p1] => if resetPattern idx p0 then .rst [p1] else .wr2 idx p0 p1
  | [idx, p0, p1, p2] => if resetPattern idx p0 then .rst [p1, p2] else .wr3 idx p0 p1 p2
  | [idx, p0, p1, p2, p3] =>
    if resetPattern idx p0 then .rst [p1, p2, p3] else .wr4 idx p0 p1 p2 p3
  | bytes => .dropOverlong bytes

/-- `decode(direction, bytes)` of R63. An outbound transaction carries no bytes to the block (R62). -/
def decode (direction : Direction) (bytes : List Byte) : Instr :=
  match direction with
  | .outbound => .rd
  | .inbound => decodeInbound bytes

/-- The operation an event stands for (R8, R64). It reads no state of the block (R56, R63). -/
def decodeEvent : Event → Instr
  | .rx bytes => decode .inbound bytes
  | .rq => decode .outbound []
  | .tick now => .tick now
  | .por => .por

/-- The bytes of an operation on the bus, in bus order (R60, R61, R69); RD, TICK and POR put none
there. -/
def busBytes : Instr → List Byte
  | .sel idx => [idx]
  | .wr1 idx p0 => [idx, p0]
  | .wr2 idx p0 p1 => [idx, p0, p1]
  | .wr3 idx p0 p1 p2 => [idx, p0, p1, p2]
  | .wr4 idx p0 p1 p2 p3 => [idx, p0, p1, p2, p3]
  | .rst extra => 0x00 :: 0x07 :: extra
  | .dropEmpty => []
  | .dropOverlong bytes => bytes
  | .rd => []
  | .tick _ => []
  | .por => []

/-- The event that carries an operation: the encoding of R59 to R62, and the two internal events. -/
def encode : Instr → Event
  | .rd => .rq
  | .tick now => .tick now
  | .por => .por
  | .sel idx => .rx (busBytes (.sel idx))
  | .wr1 idx p0 => .rx (busBytes (.wr1 idx p0))
  | .wr2 idx p0 p1 => .rx (busBytes (.wr2 idx p0 p1))
  | .wr3 idx p0 p1 p2 => .rx (busBytes (.wr3 idx p0 p1 p2))
  | .wr4 idx p0 p1 p2 p3 => .rx (busBytes (.wr4 idx p0 p1 p2 p3))
  | .rst extra => .rx (busBytes (.rst extra))
  | .dropEmpty => .rx (busBytes .dropEmpty)
  | .dropOverlong bytes => .rx (busBytes (.dropOverlong bytes))

/-- The bytes of a table row's word, in bus order. DEDUCED, log 6: the table writes a transaction as
one number whose most significant byte is the first on the bus (RST: encoding `00000000 00000111`,
match `0x0007`). -/
def tableBytes (nbits w : Nat) : List Byte :=
  (List.range (nbits / 8)).map fun k => BitVec.ofNat 8 (w / 256 ^ (nbits / 8 - 1 - k))

/-- The operation the decoder reads from a table row's word, taken as an inbound transaction of
`nbits / 8` bytes; none where the bits are no whole bytes. The rows of no bits are all the empty
transaction here (log 7). -/
def decodeTableWord (nbits w : Nat) : Option Instr :=
  if nbits % 8 = 0 then some (decode .inbound (tableBytes nbits w)) else none

/-! ### The controller's pseudo-operations (R75)

Controller-side conventions of the spec (D27), used in claims: each is the bus transaction the named
command sends. `P` and `M` are the controller's shadow copies of `periodIndex` and `mode`. -/

/-- `reset` = `W[0, 7]`. -/
def pseudoReset : Event := .rx [0x00, 0x07]

/-- `setIntensity(v)` = `W[1, v]`. -/
def pseudoSetIntensity (v : Byte) : Event := .rx [0x01, v]

/-- `setMode(m)` = `W[2, 16*m + P]`. -/
def pseudoSetMode (m : Nat) (P : Nat) : Event := .rx [0x02, BitVec.ofNat 8 (16 * m + P)]

/-- `setPeriod(p)` = `W[2, 16*M + p]`. -/
def pseudoSetPeriod (p : Nat) (M : Nat) : Event := .rx [0x02, BitVec.ofNat 8 (16 * M + p)]

/-- `setOnOff(o)` = `W[0, 8*o]`. -/
def pseudoSetOnOff (o : Bool) : Event := .rx [0x00, if o then 0x08 else 0x00]

/-- `readRegister(i)` = `W[i]`, then at least one `T`, then `R`; here with one tick at `now`. -/
def pseudoReadRegister (i : Byte) (now : Clock) : List Event := [.rx [i], .tick now, .rq]

end Sys2Proof
end

