-- ==== Sys2Proof/Machine/State.lean ====
section
/-! DEFINITION. The block's state as plain data (10_state.md R13), its stops, and the state after
power-on (R36, R155). -/

namespace Sys2Proof.Machine

/-- The Register File: `RF[0]` = CTRL, `RF[1]` = INTENSITY, `RF[2]` = CONFIG, `RF[3]` = RSVD
(R14 to R22). It is held as bytes; the bitfields are views of them (Operands.lean, Flags.lean). -/
abbrev RegFile := Vector Byte Config.nreg

/-- The Transaction Handler's state (R23). -/
inductive TxState where
  /-- nothing is pending -/
  | idle
  /-- a select is pending -/
  | awaitResponse
  /-- a write is pending -/
  | applyWrite
  deriving DecidableEq, Repr

/-- The waveform modes (R21). -/
inductive Mode where
  | steady
  | blink
  | pulse
  deriving DecidableEq, Repr

/-- The Transaction Buffer (R13, R23 to R25), a single-slot mailbox (R58). -/
structure TxBuffer where
  /-- `txState` (R23) -/
  txState : TxState
  /-- `latchedIndex`, stored unclamped (R24) -/
  latchedIndex : Byte
  /-- `payload[0..PAYLOAD_MAX-1]` (R25) -/
  payload : Vector Byte Config.payloadMax
  /-- `payloadLen`, in `0..PAYLOAD_MAX` (R25) -/
  payloadLen : Fin (Config.payloadMax + 1)
  deriving DecidableEq, Repr

/-- The Waveform State (R13, R28 to R31). -/
structure Wave where
  /-- `cur`, the source's `currentIntensity`, signed (R28) -/
  cur : I16
  /-- `step`, the source's `stepIntensity`, signed (R29) -/
  step : I16
  /-- `actualPeriod`, microseconds (R30) -/
  actualPeriod : U32
  /-- `next`, the source's `nextEventTimestamp` (R31) -/
  next : Clock
  deriving DecidableEq, Repr

/-- The complete state of R13, and three fields of the model's own: the environment's pending events,
the record of what was returned to the controller, and the count that picks free values. -/
structure State where
  /-- Register File (R14) -/
  rf : RegFile
  /-- Transaction Buffer (R23 to R25) -/
  tx : TxBuffer
  /-- `respCache` (R26) -/
  respCache : Byte
  /-- Waveform State (R28 to R31) -/
  wave : Wave
  /-- `pwmDuty`, the last value written to the PWM channel (R32) -/
  pwmDuty : Byte
  /-- MODEL: the events still to be delivered, oldest first (R8, R54). DESIGN CHOICE, log 1. -/
  events : List Event
  /-- MODEL: the byte sequences `RQ` returned, oldest first (R97). DESIGN CHOICE, log 14. -/
  responses : List (List Byte)
  /-- MODEL: how many power-ons happened; selects the free values of the next. DESIGN CHOICE, log 4. -/
  porCount : Nat
  deriving DecidableEq, Repr

/-- The block raises no exception and has no fatal state (R137), so there is no fault. Safe; log 16. -/
inductive Fault where
  deriving DecidableEq, Repr

/-- Why the model gives an operation no meaning. -/
inductive Refusal where
  /-- An operation not modelled yet, by its table mnemonic. Raised by an arm of `exec` alone; no arm
  raises it. Safe. -/
  | notModelled (mnemonic : String)
  /-- `RF[2]` holds `mode` 3 or `periodIndex` above 9 when `reconfigure` or `wtick` is to run. Raised
  by TICK alone. Safe: 93_implementation_defined.md U5 asks for it, and no reachable state holds such a
  byte (R35, R84). Log 5. -/
  | configOutOfRange
  deriving DecidableEq, Repr

/-- The state right after power-on (R36, R155, R156): the 0-th power-on, with nothing scheduled and
nothing returned. The values R36 leaves unspecified are free (log 2, 3). -/
def State.reset : State where
  rf := Config.resetVector
  tx :=
    { txState := .idle
      latchedIndex := Config.porLatchedIndex 0
      payload := Config.porPayload 0
      payloadLen := Config.porPayloadLen 0 }
  respCache := Config.porRespCache 0
  wave :=
    { cur := 0
      step := Config.porStep 0
      actualPeriod := Config.resetPeriod
      next := Config.porNext 0 }
  pwmDuty := Config.porPwmDuty 0
  events := []
  responses := []
  porCount := 1

end Sys2Proof.Machine
end

