-- ==== Sys2Proof/Machine/Operands.lean ====
section
/-! DEFINITION. Operand forms: the register index, the bitfields of a Register File byte, the value a
store keeps, the fields view of the whole file (R34, R43, R65 to R68, R80), and the payload. -/

namespace Sys2Proof.Machine

/-- The register an index names: `min(index, 3)`. The index is a natural number, so a burst does not
wrap at 8 bits (R43, R44, R65). -/
def effective (index : Nat) : Fin Config.nreg := ⟨min index 3, by unfold Config.nreg; omega⟩

/-! ### Bitfields of one byte (R15, R19, R67, R68) -/

/-- `reset`, bits [2:0] of CTRL (R16). -/
def resetField (ctrl : Byte) : BitVec 3 := ctrl.extractLsb' 0 3

/-- `onOff`, bit [3] of CTRL (R17). -/
def onOffField (ctrl : Byte) : Bool := ctrl.getLsbD 3

/-- The unnamed bits [7:4] of CTRL (R15). -/
def ctrlUnnamed (ctrl : Byte) : BitVec 4 := ctrl.extractLsb' 4 4

/-- `periodIndex`, bits [3:0] of CONFIG (R20). -/
def periodField (config : Byte) : BitVec 4 := config.extractLsb' 0 4

/-- `mode`, bits [5:4] of CONFIG (R21). -/
def modeField (config : Byte) : BitVec 2 := config.extractLsb' 4 2

/-- The unused bits [7:6] of CONFIG (R19). -/
def configUnused (config : Byte) : BitVec 2 := config.extractLsb' 6 2

/-- CTRL from its fields, most significant first (R34). -/
def packCtrl (c74 : BitVec 4) (onOff : Bool) (reset : BitVec 3) : Byte :=
  c74 ++ (BitVec.ofBool onOff ++ reset)

/-- CONFIG from its fields, most significant first (R34). -/
def packConfig (g76 : BitVec 2) (mode : BitVec 2) (periodIndex : BitVec 4) : Byte :=
  g76 ++ (mode ++ periodIndex)

/-- The fields view of the Register File (R34). -/
structure Fields where
  reset : BitVec 3
  onOff : Bool
  c74 : BitVec 4
  intensity : Byte
  periodIndex : BitVec 4
  mode : BitVec 2
  g76 : BitVec 2
  rsvd : Byte
  deriving DecidableEq, Repr

/-- `encode(f)` of R34. -/
def encodeFields (f : Fields) : RegFile :=
  #v[packCtrl f.c74 f.onOff f.reset, f.intensity, packConfig f.g76 f.mode f.periodIndex, f.rsvd]

/-- `decode(b)` of R34. -/
def decodeFields (rf : RegFile) : Fields where
  reset := resetField rf[0]
  onOff := onOffField rf[0]
  c74 := ctrlUnnamed rf[0]
  intensity := rf[1]
  periodIndex := periodField rf[2]
  mode := modeField rf[2]
  g76 := configUnused rf[2]
  rsvd := rf[3]

/-- The nearest legal `periodIndex`: `min(v, 9)` (R68, R80, D7). -/
def clampPeriod (v : BitVec 4) : BitVec 4 := BitVec.ofNat 4 (min v.toNat 9)

/-- The nearest legal `mode`: `min(v, 2)` (R68, R80, D7). -/
def clampMode (v : BitVec 2) : BitVec 2 := BitVec.ofNat 2 (min v.toNat 2)

/-- `sanitise(i, v)`, the value stored when `v` is written to byte `i` (R80). -/
def sanitise (i : Fin Config.nreg) (v : Byte) : Byte :=
  if i.val = 2 then packConfig (configUnused v) (clampMode (modeField v)) (clampPeriod (periodField v))
  else v

/-- The payload bytes a pending write holds, `payload[0..payloadLen-1]` (R25). -/
def validPayload (tx : TxBuffer) : List Byte := tx.payload.toList.take tx.payloadLen.val

end Sys2Proof.Machine
end

