-- ==== Sys2Proof/Machine/Flags.lean ====
section
/-! DEFINITION. The flag-like state (R38) and every yes-or-no test an operation makes. The block has
no condition-code register. -/

namespace Sys2Proof.Machine

/-! ### Field getters (R81), pure functions of the Register File -/

/-- `getReset()` -/
def getReset (rf : RegFile) : BitVec 3 := resetField rf[0]

/-- `getOnOff()`: false forces the output to 0 (R17, R117). -/
def getOnOff (rf : RegFile) : Bool := onOffField rf[0]

/-- `getIntensity()` -/
def getIntensity (rf : RegFile) : Byte := rf[1]

/-- `getPeriod()`, the raw 4-bit field -/
def getPeriod (rf : RegFile) : BitVec 4 := periodField rf[2]

/-- `getMode()`, the raw 2-bit field -/
def getMode (rf : RegFile) : BitVec 2 := modeField rf[2]

/-- The mode a 2-bit field names: 0 = STEADY, 1 = BLINK, 2 = PULSE (R21). The field can spell 3, which
names no mode (U5). -/
def modeOf (m : BitVec 2) : Option Mode :=
  match m.toNat with
  | 0 => some .steady
  | 1 => some .blink
  | 2 => some .pulse
  | _ => none

/-- `PT[k]`; none where the table has no such entry (R50, U5). -/
def periodOf (k : BitVec 4) : Option U32 := Config.periodTable[k.toNat]?

/-- What CONFIG selects: the mode and the resolved duration `getPeriodUs()` (R81). None exactly where
R35 (i) or (ii) fails. -/
def getConfig? (rf : RegFile) : Option (Mode × U32) :=
  match modeOf (getMode rf), periodOf (getPeriod rf) with
  | some m, some P => some (m, P)
  | _, _ => none

/-- The soft-reset test on a pending write (R100): the raw index is 0 and the whole first payload byte
is 7, whatever `payloadLen` is (D5, D6). -/
def isReset (tx : TxBuffer) : Bool := tx.latchedIndex == 0 && tx.payload[0] == Config.resetMagic

/-- `deadline(now, d) = (now + d) mod 2^W` (R108). -/
def deadline (now : Clock) (interval : Nat) : Clock := now + BitVec.ofNat Config.clockBits interval

/-- `passed(now, d)`, "has `now` passed deadline `d`": the signed modular difference is positive
(R109, strict by D12). -/
def passed (now d : Clock) : Bool := decide (0 < (now - d).toInt)

end Sys2Proof.Machine
end

