-- ==== Sys2Proof/Machine/Ops.lean ====
section
/-! DEFINITION. The named operations over the registers: the Register File (R78 to R83), the
Transaction Buffer (R92, R93, R97) and the Output Driver (R129).
There is no exception entry and no return from one here: the block raises no exception (R137), and a
callback saves nothing and restores nothing (R144, R145). -/

namespace Sys2Proof.Machine

/-- Runs `f` on the next state; a stop stays that stop. -/
def andThen (o : Host.Outcome State Fault Refusal) (f : State → Host.Outcome State Fault Refusal) :
    Host.Outcome State Fault Refusal :=
  match o with
  | .next s => f s
  | .fault r => .fault r
  | .refused r => .refused r

/-! ### Register File -/

/-- `RFget(index)` (R78): the raw stored byte. -/
def rfGet (rf : RegFile) (index : Nat) : Byte := rf[effective index]

/-- `RFset(index, value)` (R79): stores the sanitised value in one byte. -/
def rfSet (rf : RegFile) (index : Nat) (value : Byte) : RegFile :=
  rf.set (effective index) (sanitise (effective index) value)

/-- `RFreset()` (R83), whose source ignores the old contents: raw bytes `00 00 06 00`, then `onOff`
forced on. -/
def rfReset : RegFile :=
  let raw : RegFile := #v[0x00, 0x00, 0x06, 0x00]
  raw.set 0 (packCtrl (ctrlUnnamed raw[0]) true (resetField raw[0]))

/-- The burst of R101: payload byte `k` through `RFset` at `index + k`, ascending, the sum not wrapped
(R44). -/
def storeBurst (index : Nat) (bytes : List Byte) (rf : RegFile) : RegFile :=
  match bytes with
  | [] => rf
  | b :: bs => storeBurst (index + 1) bs (rfSet rf index b)

/-! ### Field setters (R82)

Read-modify-write over one byte, "defined for use in proofs and tests"; no bus transaction performs
one. -/

/-- `setOnOffField(o)` -/
def setOnOffField (o : Nat) (rf : RegFile) : RegFile :=
  rfSet rf 0 (packCtrl (ctrlUnnamed rf[0]) (o % 2 == 1) (resetField rf[0]))

/-- `setIntensityField(v)` -/
def setIntensityField (v : Nat) (rf : RegFile) : RegFile := rfSet rf 1 (BitVec.ofNat 8 v)

/-- `setPeriodField(p)` -/
def setPeriodField (p : Nat) (rf : RegFile) : RegFile :=
  rfSet rf 2 (packConfig (configUnused rf[2]) (modeField rf[2]) (BitVec.ofNat 4 p))

/-- `setModeField(m)` -/
def setModeField (m : Nat) (rf : RegFile) : RegFile :=
  rfSet rf 2 (packConfig (configUnused rf[2]) (BitVec.ofNat 2 m) (periodField rf[2]))

/-! ### Transaction Buffer -/

/-- `txState <- IDLE` -/
def toIdle (s : State) : State := { s with tx := { s.tx with txState := .idle } }

/-- SEL's arrival action (R92). -/
def latchSelect (idx : Byte) (s : State) : State :=
  { s with tx := { s.tx with latchedIndex := idx, txState := .awaitResponse } }

/-- The payload after `payload[0..n-2] <- bytes` (R93). A place with no new byte keeps its old one
(DEDUCED, log 8). -/
def payloadWith (bytes : List Byte) (old : Vector Byte Config.payloadMax) :
    Vector Byte Config.payloadMax :=
  Vector.ofFn fun k => bytes.getD k.val old[k]

/-- The arrival action of WR and RST (R93, R94): buffer raw, do nothing else. Bytes past `PAYLOAD_MAX`
cannot come: that length is DROP (log 15). -/
def latchWrite (idx : Byte) (bytes : List Byte) (s : State) : State :=
  { s with
    tx :=
      { txState := .applyWrite
        latchedIndex := idx
        payload := payloadWith bytes s.tx.payload
        payloadLen := ⟨min bytes.length Config.payloadMax, by omega⟩ } }

/-- The response RQ returns, `[respCache]`, `RESP_LEN` bytes (R76, R97). -/
def response (s : State) : List Byte := List.replicate Config.respLen s.respCache

/-- RD's arrival action (R97): the response is returned, recorded in the model's `responses`, and the
handler goes to IDLE. -/
def answerRead (s : State) : State := { toIdle s with responses := s.responses ++ [response s] }

/-! ### Output Driver -/

/-- `odWrite(v)` (R129): `pwmDuty <- clamp(v, 0, 255)`. -/
def odWrite (v : I16) (s : State) : State :=
  { s with pwmDuty := BitVec.ofInt 8 (min (max v.toInt 0) 255) }

end Sys2Proof.Machine
end

