-- ==== Sys2Proof/Machine/Arrival.lean ====
section
/-! DEFINITION. The arrival half of the Transaction Handler, run in the transaction context
(41_transaction_handler.md section 1): O(1) copies into the Transaction Buffer, nothing else (R105). -/

namespace Sys2Proof.Machine

/-- SEL (R92). -/
def execSel (idx : Byte) (s : State) : Host.Outcome State Fault Refusal :=
  .next (latchSelect idx s)

/-- WR with 1 payload byte (R93). -/
def execWr1 (idx p0 : Byte) (s : State) : Host.Outcome State Fault Refusal :=
  .next (latchWrite idx [p0] s)

/-- WR with 2 payload bytes (R93). -/
def execWr2 (idx p0 p1 : Byte) (s : State) : Host.Outcome State Fault Refusal :=
  .next (latchWrite idx [p0, p1] s)

/-- WR with 3 payload bytes (R93). -/
def execWr3 (idx p0 p1 p2 : Byte) (s : State) : Host.Outcome State Fault Refusal :=
  .next (latchWrite idx [p0, p1, p2] s)

/-- WR with 4 payload bytes (R93). -/
def execWr4 (idx p0 p1 p2 p3 : Byte) (s : State) : Host.Outcome State Fault Refusal :=
  .next (latchWrite idx [p0, p1, p2, p3] s)

/-- RST (R94): on arrival it is buffered as the write it is; the reset happens at the next TICK
(R100). -/
def execRst (extra : List Byte) (s : State) : Host.Outcome State Fault Refusal :=
  .next (latchWrite 0x00 (Config.resetMagic :: extra) s)

/-- DROP, zero length (R95): no change. -/
def execDropEmpty (s : State) : Host.Outcome State Fault Refusal := .next s

/-- DROP, overlong (R96): no change, no prefix is applied. -/
def execDropOverlong (_bytes : List Byte) (s : State) : Host.Outcome State Fault Refusal := .next s

/-- RD (R97): the cached byte is returned, and the handler goes to IDLE from any state. -/
def execRd (s : State) : Host.Outcome State Fault Refusal :=
  .next (answerRead s)

end Sys2Proof.Machine
end

