-- ==== Sys2Proof/Machine/Boot.lean ====
section
/-! DEFINITION. Power-on (70_reset_and_hazards.md R155 to R157). -/

namespace Sys2Proof.Machine

/-- The state POR leaves (R155). What the rule leaves unspecified is free (R157, log 2 and 3), fresh at
each power-on. The environment's schedule and the record of past responses are no state of the block
and stay. -/
def bootState (s : State) : State :=
  { s with
    rf := rfReset
    tx :=
      { txState := .idle
        latchedIndex := Config.porLatchedIndex s.porCount
        payload := Config.porPayload s.porCount
        payloadLen := Config.porPayloadLen s.porCount }
    respCache := Config.porRespCache s.porCount
    wave :=
      { cur := 0
        step := Config.porStep s.porCount
        actualPeriod := Config.resetPeriod
        next := Config.porNext s.porCount }
    pwmDuty := Config.porPwmDuty s.porCount
    porCount := s.porCount + 1 }

/-- POR (R155). -/
def execPor (s : State) : Host.Outcome State Fault Refusal := .next (bootState s)

end Sys2Proof.Machine
end

