-- ==== Sys2Proof/Machine/Waveform.lean ====
section
/-! DEFINITION. The Waveform Engine (42_waveform_engine.md). Its functions on `Wave` take the divisor
`PHASE_DIV` as their argument `d`, since the spec keeps it a parameter (U10; log 11). -/

namespace Sys2Proof.Machine

/-! ### Intervals (R110, R111): truncating division, in the two stages written -/

/-- `blinkInterval(P) = P / PHASE_DIV` -/
def blinkInterval (d : Nat) (P : U32) : Nat := P.toNat / d

/-- `pulseInterval(P) = (P / PHASE_DIV) / PULSE_LEVELS` -/
def pulseInterval (d : Nat) (P : U32) : Nat := P.toNat / d / Config.pulseLevels

/-- The configured intensity `I` zero-extended to `i16` (42_waveform_engine.md, introduction). -/
def intensity16 (I : Byte) : I16 := I.setWidth 16

/-! ### reconfigure (R112 to R115) -/

/-- `reconfigurePulse(now)` (R113): the ramp restarts from 0, going up. -/
def reconfigurePulse (d : Nat) (I : Byte) (now : Clock) (w : Wave) : Wave :=
  { w with
    cur := 0
    step := BitVec.ofNat 16 (I.toNat / Config.pulseLevels)
    next := deadline now (pulseInterval d w.actualPeriod) }

/-- `reconfigureBlink(now)` (R114): the cycle restarts in its off half. -/
def reconfigureBlink (d : Nat) (now : Clock) (w : Wave) : Wave :=
  { w with cur := 0, next := deadline now (blinkInterval d w.actualPeriod) }

/-- `reconfigure(now)` on the Waveform State, for a mode and the resolved period (R112). -/
def reconfigureWave (d : Nat) (m : Mode) (P : U32) (I : Byte) (now : Clock) (w : Wave) : Wave :=
  let w := { w with actualPeriod := P }
  match m with
  | .steady => w
  | .blink => reconfigureBlink d now w
  | .pulse => reconfigurePulse d I now w

/-- `reconfigure(now)` (R112). No meaning where CONFIG is out of range (U5, log 5). -/
def reconfigure (d : Nat) (now : Clock) (s : State) : Host.Outcome State Fault Refusal :=
  match getConfig? s.rf with
  | some (m, P) => .next { s with wave := reconfigureWave d m P (getIntensity s.rf) now s.wave }
  | none => .refused .configOutOfRange

/-! ### wtick (R116 to R120) -/

/-- `quickKill()` (R117) -/
def quickKill (w : Wave) : Wave := { w with cur := 0 }

/-- `tickSteady()` (R118) -/
def tickSteady (I : Byte) (w : Wave) : Wave := { w with cur := intensity16 I }

/-- `tickBlink(now)` (R119) -/
def tickBlink (d : Nat) (I : Byte) (now : Clock) (w : Wave) : Wave :=
  if passed now w.next then
    { w with
      cur := if w.cur = 0 then intensity16 I else 0
      next := deadline now (blinkInterval d w.actualPeriod) }
  else w

/-- The step and the bounce of a PULSE event (R120): the upper bound is tested first, and both are
"reached or crossed" (D29). The sum is exact (R111; log 12). -/
def pulseBounce (I : Byte) (w : Wave) : Wave :=
  let sum := w.cur.toInt + w.step.toInt
  if (I.toNat : Int) ≤ sum then { w with cur := intensity16 I, step := -w.step }
  else if sum ≤ 0 then { w with cur := 0, step := -w.step }
  else { w with cur := BitVec.ofInt 16 sum }

/-- `tickPulse(now)` (R120) -/
def tickPulse (d : Nat) (I : Byte) (now : Clock) (w : Wave) : Wave :=
  if passed now w.next then
    { pulseBounce I w with next := deadline now (pulseInterval d w.actualPeriod) }
  else w

/-- `wtick(now)` on the Waveform State (R116): the `onOff` test comes first. -/
def wtickWave (d : Nat) (m : Mode) (onOff : Bool) (I : Byte) (now : Clock) (w : Wave) : Wave :=
  if onOff then
    match m with
    | .steady => tickSteady I w
    | .blink => tickBlink d I now w
    | .pulse => tickPulse d I now w
  else quickKill w

/-- `wtick(now)` (R116). No meaning where CONFIG is out of range (U5, log 5). -/
def wtick (d : Nat) (now : Clock) (s : State) : Host.Outcome State Fault Refusal :=
  match getConfig? s.rf with
  | some (m, _) =>
    .next { s with wave := wtickWave d m (getOnOff s.rf) (getIntensity s.rf) now s.wave }
  | none => .refused .configOutOfRange

end Sys2Proof.Machine
end

