-- ==== Sys2Proof/Machine/Idle.lean ====
section
/-! DEFINITION. The idle tick: the service half of the Transaction Handler (R98 to R103), then the
Waveform Engine, then the Output Driver (R131). -/

namespace Sys2Proof.Machine

/-- Service of a pending select (R99). -/
def serveSelect (s : State) : State :=
  toIdle { s with respCache := rfGet s.rf s.tx.latchedIndex.toNat }

/-- The Register File after a pending write is applied: the reset branch (R100) or the store branch
(R101). -/
def applyPending (tx : TxBuffer) (rf : RegFile) : RegFile :=
  if isReset tx then rfReset else storeBurst tx.latchedIndex.toNat (validPayload tx) rf

/-- Service of a pending write: apply, `reconfigure` once, go to IDLE (R100 to R102). -/
def serveWrite (d : Nat) (now : Clock) (s : State) : Host.Outcome State Fault Refusal :=
  andThen (reconfigure d now { s with rf := applyPending s.tx s.rf }) fun s' => .next (toIdle s')

/-- Phase 1 of TICK, the handler service (R98). -/
def service (d : Nat) (now : Clock) (s : State) : Host.Outcome State Fault Refusal :=
  match s.tx.txState with
  | .awaitResponse => .next (serveSelect s)
  | .applyWrite => serveWrite d now s
  | .idle => .next s

/-- TICK for a divisor `d` (R131): service, then `wtick`, then `odWrite(cur)`, with one clock sample
(D14, D15). -/
def idleTick (d : Nat) (now : Clock) (s : State) : Host.Outcome State Fault Refusal :=
  andThen (service d now s) fun s1 =>
    andThen (wtick d now s1) fun s2 => .next (odWrite s2.wave.cur s2)

/-- TICK (R131), with this hardware's `PHASE_DIV`. -/
def execTick (now : Clock) (s : State) : Host.Outcome State Fault Refusal :=
  idleTick Config.phaseDiv now s

end Sys2Proof.Machine
end

