-- ==== Sys2Proof/Machine/Dispatch.lean ====
section
/-! DEFINITION. One arm per operation of the block (R64). -/

namespace Sys2Proof.Machine

def exec (i : Instr) (s : State) : Host.Outcome State Fault Refusal :=
  match i with
  | .sel idx => Sys2Proof.Machine.execSel idx s
  | .wr1 idx p0 => Sys2Proof.Machine.execWr1 idx p0 s
  | .wr2 idx p0 p1 => Sys2Proof.Machine.execWr2 idx p0 p1 s
  | .wr3 idx p0 p1 p2 => Sys2Proof.Machine.execWr3 idx p0 p1 p2 s
  | .wr4 idx p0 p1 p2 p3 => Sys2Proof.Machine.execWr4 idx p0 p1 p2 p3 s
  | .rst extra => Sys2Proof.Machine.execRst extra s
  | .dropEmpty => Sys2Proof.Machine.execDropEmpty s
  | .dropOverlong bytes => Sys2Proof.Machine.execDropOverlong bytes s
  | .rd => Sys2Proof.Machine.execRd s
  | .tick now => Sys2Proof.Machine.execTick now s
  | .por => Sys2Proof.Machine.execPor s

end Sys2Proof.Machine
end

