-- ==== Sys2Proof/Machine/Step.lean ====
section
/-! DEFINITION. One step: the oldest scheduled event happens, atomically (R8, R54). -/

namespace Sys2Proof.Machine

/-- Takes the oldest event off the schedule and runs the operation it decodes to. With no event left
the block does nothing (R8; DEDUCED, log 13). -/
def step (s : State) : Host.Outcome State Fault Refusal :=
  match s.events with
  | [] => .next s
  | e :: rest => exec (decodeEvent e) { s with events := rest }

/-- `s` with an inbound transaction of these bits as its oldest event, which the very next step runs.
DESIGN CHOICE, log 1 and log 6. -/
def State.withFetchWord (s : State) (nbits w : Nat) : State :=
  { s with events := .rx (tableBytes nbits w) :: s.events }

end Sys2Proof.Machine
end

