-- ==== Sys2Proof/Safety.lean ====
section
/-! DEFINITION. The terms claims about the block are made in: the invariants of R35 and R125, the
premises on the environment (R162, R166), the transition table of R104, and the trajectories of R121
and R122. -/

namespace Sys2Proof.Machine

/-! ### Invariants -/

/-- R35 (i) and (ii): CONFIG holds a legal period index and a legal mode. -/
abbrev configLegal (rf : RegFile) : Prop := (getPeriod rf).toNat ≤ 9 ∧ (getMode rf).toNat ≤ 2

/-- `actualPeriod = PT[getPeriod()]` (R134), which gives R35 (iii). -/
abbrev periodResolved (s : State) : Prop := periodOf (getPeriod s.rf) = some s.wave.actualPeriod

/-- A pending write holds at least one byte (R25). -/
abbrev pendingNonempty (s : State) : Prop := s.tx.txState = .applyWrite → 0 < s.tx.payloadLen.val

/-- `0 <= cur <= I` between events (R125). -/
abbrev curInRange (s : State) : Prop :=
  0 ≤ s.wave.cur.toInt ∧ s.wave.cur.toInt ≤ (getIntensity s.rf).toNat

/-- In BLINK mode `cur` is 0 or `I` (R122). -/
abbrev blinkTwoLevels (s : State) : Prop :=
  modeOf (getMode s.rf) = some .blink → s.wave.cur = 0 ∨ s.wave.cur = intensity16 (getIntensity s.rf)

/-- In PULSE mode `step` has the magnitude `I / 16` (R29). -/
abbrev pulseStepMagnitude (s : State) : Prop :=
  modeOf (getMode s.rf) = some .pulse →
    s.wave.step = BitVec.ofNat 16 ((getIntensity s.rf).toNat / 16) ∨
      s.wave.step = -BitVec.ofNat 16 ((getIntensity s.rf).toNat / 16)

/-- The invariant of the block: true after power-on, kept by every event. -/
abbrev Inv (s : State) : Prop :=
  configLegal s.rf ∧ periodResolved s ∧ pendingNonempty s ∧ curInRange s ∧ blinkTwoLevels s ∧
    pulseStepMagnitude s

/-! ### Event classes and the table of R104 -/

/-- An inbound transaction of a well-formed length, 1 to 5 bytes (R106). -/
abbrev lengthOk (bytes : List Byte) : Prop := 1 ≤ bytes.length ∧ bytes.length ≤ 5

/-- The next `txState` for a current one and an event: the table of R104, with POR's row (R155). -/
def txTable (now : TxState) : Event → TxState
  | .rx bytes =>
    if bytes.length = 1 then .awaitResponse
    else if 2 ≤ bytes.length ∧ bytes.length ≤ 5 then .applyWrite
    else now
  | .rq => .idle
  | .tick _ => .idle
  | .por => .idle

/-- An event that uses the single-slot buffer: a well-formed RX or an RQ (R162). -/
def usesBuffer : Event → Bool
  | .rx bytes => decide (lengthOk bytes)
  | .rq => true
  | .tick _ => false
  | .por => false

/-- "between any two of `RX` (well formed) and `RQ` there is a `TICK`" (R162). `busy` says that one came
and no TICK has come since. -/
def hazardFree (busy : Bool) : List Event → Bool
  | [] => true
  | .tick _ :: rest => hazardFree false rest
  | e :: rest => if usesBuffer e then !busy && hazardFree true rest else hazardFree busy rest

/-! ### What an arrival buffers -/

/-- The Transaction Buffer holds the pending write `idx, bytes` (R93). -/
abbrev holdsWrite (tx : TxBuffer) (idx : Byte) (bytes : List Byte) : Prop :=
  tx.txState = .applyWrite ∧ tx.latchedIndex = idx ∧ tx.payloadLen.val = bytes.length ∧
    validPayload tx = bytes

/-- Nothing outside the Transaction Buffer differs. -/
abbrev sameOutsideBuffer (s t : State) : Prop :=
  t.rf = s.rf ∧ t.respCache = s.respCache ∧ t.wave = s.wave ∧ t.pwmDuty = s.pwmDuty ∧
    t.events = s.events ∧ t.responses = s.responses ∧ t.porCount = s.porCount

/-- Nothing of the model's own bookkeeping differs. -/
abbrev sameEnvironment (s t : State) : Prop :=
  t.events = s.events ∧ t.responses = s.responses ∧ t.porCount = s.porCount

/-- The buffer's data is the same; `txState` may differ. -/
abbrev sameBufferData (s t : State) : Prop :=
  t.tx.latchedIndex = s.tx.latchedIndex ∧ t.tx.payload = s.tx.payload ∧
    t.tx.payloadLen = s.tx.payloadLen

/-- The frame of a TICK that serves no write: the Register File, the buffer's data and the bookkeeping
stay; the handler ends in IDLE; the Output Driver writes the clamped `cur` (R129, R131). -/
abbrev tickFrame (s t : State) : Prop :=
  t.rf = s.rf ∧ t.tx.txState = .idle ∧ sameBufferData s t ∧ sameEnvironment s t ∧
    (s.tx.txState = .idle → t.respCache = s.respCache) ∧
    t.pwmDuty = BitVec.ofInt 8 (min (max t.wave.cur.toInt 0) 255)

/-! ### Runs of steps -/

/-- `k` steps, stopping at the first that is no next state. -/
def runSteps : Nat → State → Host.Outcome State Fault Refusal
  | 0, s => .next s
  | k + 1, s => andThen (step s) (runSteps k)

/-! ### The Register File a tick ends with -/

/-- The Register File after the service phase: a pending write or reset applied, else unchanged (R98 to
R103). The rest of the tick reads it and never writes it (R116). -/
def rfAfterService (s : State) : RegFile :=
  match s.tx.txState with
  | .applyWrite => applyPending s.tx s.rf
  | .awaitResponse => s.rf
  | .idle => s.rf

/-! ### Observable agreement (R124, R157) -/

/-- The output follows a deadline: `onOff = 1` and the mode is BLINK or PULSE (R124). -/
abbrev followsDeadline (rf : RegFile) : Prop :=
  getOnOff rf = true ∧
    (modeOf (getMode rf) = some .blink ∨ modeOf (getMode rf) = some .pulse)

/-- Two states agree on everything but the items that are never read before they are written
(R157): `latchedIndex` in IDLE, the payload when no write is pending, `next` while no deadline is
followed, `step` outside a running PULSE. -/
def agreeOnLive (a b : State) : Prop :=
  a.rf = b.rf ∧ a.tx.txState = b.tx.txState ∧ a.respCache = b.respCache ∧
    a.wave.cur = b.wave.cur ∧ a.wave.actualPeriod = b.wave.actualPeriod ∧ a.pwmDuty = b.pwmDuty ∧
    sameEnvironment a b ∧
    (a.tx.txState ≠ .idle → a.tx.latchedIndex = b.tx.latchedIndex) ∧
    (a.tx.txState = .applyWrite →
      a.tx.payload[0] = b.tx.payload[0] ∧ validPayload a.tx = validPayload b.tx) ∧
    (followsDeadline a.rf → a.wave.next = b.wave.next) ∧
    (getOnOff a.rf = true ∧ modeOf (getMode a.rf) = some .pulse → a.wave.step = b.wave.step)

/-- Two outcomes agree: both next states, and these agree; or the same refusal. -/
def outcomesAgree (x y : Host.Outcome State Fault Refusal) : Prop :=
  match x, y with
  | .next a, .next b => agreeOnLive a b
  | .refused r, .refused q => r = q
  | _, _ => False

/-! ### The clock and tick-rate premises (R166)

The block sees only clock samples, so the premises are on a timed schedule: its events with the true
microsecond of each, counted without a wrap. Where the count starts is open, since the clock's reset value
is (R147). -/

/-- An event and the true microsecond it happens at. -/
abbrev Timed := Nat × Event

/-- The clock sample of a TICK is the true count modulo `2^CLOCK_BITS`; other events carry no sample. -/
def samplesTheCounter (x : Timed) : Bool :=
  match x.2 with
  | .tick now => now == BitVec.ofNat Config.clockBits x.1
  | .rx _ => true
  | .rq => true
  | .por => true

/-- R166 (i): the samples are of one counter that advances by the true elapsed microseconds and is
monotonic apart from the wrap. -/
abbrev oneCounter (sched : List Timed) : Prop :=
  sched.Pairwise (fun x y => x.1 ≤ y.1) ∧ ∀ x ∈ sched, samplesTheCounter x = true

/-- The longest true time after a deadline at which `passed` still answers truly, `2^(W-1) - 1`
microseconds (R109, R126). -/
def horizon : Nat := 2 ^ (Config.clockBits - 1) - 1

/-- The event interval of the mode the state is in (R110); STEADY schedules nothing. -/
def eventInterval (s : State) : Nat :=
  match modeOf (getMode s.rf) with
  | some .blink => blinkInterval Config.phaseDiv s.wave.actualPeriod
  | some .pulse => pulseInterval Config.phaseDiv s.wave.actualPeriod
  | some .steady => 0
  | none => 0

/-- The true instant `next` denotes in `t`, when `x` led there from `s` and it was `D` before. A tick sets
a new deadline, its own time and the interval, when it serves a write (R113, R114) or finds the old one
passed (R119, R120); no other event sets one. It has a meaning only while a deadline is followed. -/
def deadlineAfter (D : Nat) (x : Timed) (s t : State) : Nat :=
  match x.2 with
  | .tick now =>
    if s.tx.txState = .applyWrite ∨ passed now s.wave.next = true then x.1 + eventInterval t else D
  | .rx _ => D
  | .rq => D
  | .por => D

/-- `p` holds of every event of the run of `sched` from `s`, asked on the state the event finds and the
true instant of that state's deadline, and every event completes. -/
def alongRun (p : Nat → Timed → State → Bool) : Nat → List Timed → State → Bool
  | _, [], _ => true
  | D, x :: rest, s =>
    p D x s &&
      match step s with
      | .next t => alongRun p (deadlineAfter D x s t) rest t
      | .fault _ => false
      | .refused _ => false

/-- R166 (ii): while `onOff = 1` and the mode is BLINK or PULSE, some TICK occurs within `2^31 - 1`
microseconds after every deadline. A TICK after the deadline sets a new one, so the premise fails in a
schedule exactly where an event finds a deadline still standing beyond the horizon. -/
def tickInTime (D : Nat) (x : Timed) (s : State) : Bool :=
  !decide (followsDeadline s.rf) || decide (x.1 ≤ D + horizon)

/-- The two premises of R166, for the run of `sched` from `s`, whose deadline denotes the instant `D`. -/
abbrev clockPremises (D : Nat) (sched : List Timed) (s : State) : Prop :=
  oneCounter sched ∧ alongRun tickInTime D sched s = true

/-- `next` denotes the true instant `D` at the time `now`: they agree modulo the wrap, and no deadline is
further ahead than the longest interval (R123, R126). Nothing is asked where no deadline is followed. -/
abbrev denotesDeadline (D now : Nat) (s : State) : Prop :=
  followsDeadline s.rf → s.wave.next = BitVec.ofNat Config.clockBits D ∧ D ≤ now + 1000000

/-- Where a TICK finds a deadline followed, `passed` answers whether the true time is after it. -/
def comparesTruly (D : Nat) (x : Timed) (s : State) : Bool :=
  match x.2 with
  | .tick now =>
    !decide (followsDeadline s.rf) || passed now s.wave.next == decide (D < x.1)
  | .rx _ => true
  | .rq => true
  | .por => true

/-! ### Runs of ticks and trajectories (R121, R122)

For a divisor `d`, so that claims about intensity sequences hold for every `PHASE_DIV` (U10). -/

/-- TICK for each clock sample, in order. -/
def tickRun (d : Nat) : List Clock → State → Host.Outcome State Fault Refusal
  | [], s => .next s
  | now :: rest, s => andThen (idleTick d now s) (tickRun d rest)

/-- How many of these ticks find the deadline passed, that is, fire an event. -/
def eventsFired (d : Nat) : List Clock → State → Nat
  | [], _ => 0
  | now :: rest, s =>
    (if passed now s.wave.next then 1 else 0) +
      match idleTick d now s with
      | .next t => eventsFired d rest t
      | .fault _ => 0
      | .refused _ => 0

/-- `q = ceil(I / s)`, the events of one ramp (R121). -/
def pulseTurn (I : Nat) : Nat := (I + I / 16 - 1) / (I / 16)

/-- `cur` after event `k` of a PULSE trajectory (R121). -/
def pulseLevel (I k : Nat) : Nat :=
  if I / 16 = 0 then 0
  else
    let j := k % (2 * pulseTurn I)
    if j ≤ pulseTurn I then min (j * (I / 16)) I else I - (j - pulseTurn I) * (I / 16)

/-- `step` after event `k` of a PULSE trajectory: up before the turn at event `q`, down from there to
event `2q` (R121). -/
def pulseStepAt (I k : Nat) : Int :=
  if k % (2 * pulseTurn I) < pulseTurn I then ((I / 16 : Nat) : Int) else -((I / 16 : Nat) : Int)

/-- `cur` after event `k` of a BLINK trajectory (R122). -/
def blinkLevel (I k : Nat) : Nat := if k % 2 = 1 then I else 0

end Sys2Proof.Machine
end

