-- ==== Sys2Proof/Certificates/Slice0/Obligations.lean ====
section
/-! DEFINITION. The statements for the provers. Each docstring names the rule of spec/ it formalises. -/

open Sys2Proof Sys2Proof.Machine

/-! ### Encoding -/

/-- Decoding an encoded operation gives it back, for every well-formed operation and every operand
(30_encoding.md sections 1 and 2). -/
def Obligations.DecodeOfEncodeIsIdentity : Prop :=
  ∀ i : Instr, i.WellFormed → decodeEvent (encode i) = i

/-- Every event is the encoding of the operation it decodes to, and that operation is well formed: the
decoder loses no byte and answers no malformed term. -/
def Obligations.EncodeOfDecodeIsIdentity : Prop :=
  ∀ e : Event, (decodeEvent e).WellFormed ∧ encode (decodeEvent e) = e

/-- Words written out from the formats decode to the operations they stand for (95_test_vectors.md V3). -/
def Obligations.SpecWordsDecode : Prop :=
  decode .inbound [0b00000111] = .sel 7 ∧
  decode .inbound [0b00000000, 0b00000111] = .rst [] ∧
  decode .inbound [0b00000000, 0b00000111, 0b11111111] = .rst [0xFF] ∧
  decode .inbound [0b00000000, 0b00001111] = .wr1 0 0x0F ∧
  decode .inbound [0b00000010, 0b11001000] = .wr1 2 200 ∧
  decode .inbound [0, 8, 1, 2, 3] = .wr4 0 8 1 2 3 ∧
  decode .inbound [] = .dropEmpty ∧
  decode .inbound [0, 8, 1, 2, 3, 4] = .dropOverlong [0, 8, 1, 2, 3, 4] ∧
  decode .outbound [] = .rd

/-- A step runs the operation its oldest event decodes to, on the state with that event taken off; with
no event left nothing happens (00_scope.md R8); a word placed for fetching is what the next step runs.
The event list is the model's own (log 1, log 13). -/
def Obligations.StepRunsTheDecodedEvent : Prop :=
  (∀ (s : State) (e : Event) (rest : List Event), s.events = e :: rest →
      step s = exec (decodeEvent e) { s with events := rest }) ∧
  (∀ s : State, s.events = [] → step s = .next s) ∧
  (∀ (s : State) (nbits w : Nat) (i : Instr), decodeTableWord nbits w = some i →
      step (s.withFetchWord nbits w) = exec i s)

/-! ### Arrival (41_transaction_handler.md section 1) -/

/-- R91: an inbound transaction is classified by its length alone, from every state, and performs DROP,
SEL, or the arrival of WR and RST. -/
def Obligations.ArrivalIsClassifiedByLength : Prop :=
  ∀ (s : State) (bytes : List Byte) (rest : List Event), s.events = .rx bytes :: rest →
    (¬ lengthOk bytes → step s = .next { s with events := rest }) ∧
    (∀ idx, bytes = [idx] →
      ∃ t, step s = .next t ∧ t.tx.txState = .awaitResponse ∧ t.tx.latchedIndex = idx ∧
        t.tx.payload = s.tx.payload ∧ t.tx.payloadLen = s.tx.payloadLen ∧
        sameOutsideBuffer { s with events := rest } t) ∧
    (∀ idx p ps, bytes = idx :: p :: ps → lengthOk bytes →
      ∃ t, step s = .next t ∧ holdsWrite t.tx idx (p :: ps) ∧
        sameOutsideBuffer { s with events := rest } t)

/-- R92: SEL latches the raw index and awaits a response; nothing else changes. -/
def Obligations.SelLatchesIndex : Prop :=
  ∀ (idx : Byte) (s : State),
    exec (.sel idx) s =
      .next { s with tx := { s.tx with latchedIndex := idx, txState := .awaitResponse } }

/-- R93: WR, of every length, buffers its raw payload and applies nothing. -/
def Obligations.WrBuffersPayload : Prop :=
  ∀ (idx p0 p1 p2 p3 : Byte) (s : State),
    (∃ t, exec (.wr1 idx p0) s = .next t ∧ holdsWrite t.tx idx [p0] ∧ sameOutsideBuffer s t) ∧
    (∃ t, exec (.wr2 idx p0 p1) s = .next t ∧ holdsWrite t.tx idx [p0, p1] ∧
      sameOutsideBuffer s t) ∧
    (∃ t, exec (.wr3 idx p0 p1 p2) s = .next t ∧ holdsWrite t.tx idx [p0, p1, p2] ∧
      sameOutsideBuffer s t) ∧
    (∃ t, exec (.wr4 idx p0 p1 p2 p3) s = .next t ∧ holdsWrite t.tx idx [p0, p1, p2, p3] ∧
      sameOutsideBuffer s t)

/-- R94: RST is buffered on arrival as the write it is, whatever bytes follow the pattern. -/
def Obligations.RstIsBufferedLikeAWrite : Prop :=
  ∀ (extra : List Byte) (s : State), extra.length ≤ 3 →
    ∃ t, exec (.rst extra) s = .next t ∧ holdsWrite t.tx 0x00 (0x07 :: extra) ∧
      sameOutsideBuffer s t

/-- R95, R96 (spec decisions D3, D17): a DROP changes nothing, so pending work stays pending. -/
def Obligations.DropChangesNothing : Prop :=
  ∀ (s : State) (bytes : List Byte),
    exec .dropEmpty s = .next s ∧ exec (.dropOverlong bytes) s = .next s

/-- The model's reading of R93, not the spec's word (log 8): a payload place past the new bytes keeps
its old byte. -/
def Obligations.PayloadPastTheNewBytesIsKept : Prop :=
  ∀ (idx p0 p1 p2 : Byte) (s t : State),
    (exec (.wr1 idx p0) s = .next t →
      t.tx.payload[1] = s.tx.payload[1] ∧ t.tx.payload[2] = s.tx.payload[2] ∧
        t.tx.payload[3] = s.tx.payload[3]) ∧
    (exec (.wr2 idx p0 p1) s = .next t →
      t.tx.payload[2] = s.tx.payload[2] ∧ t.tx.payload[3] = s.tx.payload[3]) ∧
    (exec (.wr3 idx p0 p1 p2) s = .next t → t.tx.payload[3] = s.tx.payload[3])

/-- R97 (spec decisions D18, D28): RD answers the cached byte and goes to IDLE from every state; nothing
else changes.
`responses` is the model's record of what was returned (log 14). -/
def Obligations.RdReturnsTheCache : Prop :=
  ∀ s : State,
    exec .rd s =
      .next
        { s with
          tx := { s.tx with txState := .idle }
          responses := s.responses ++ [[s.respCache]] }

/-! ### Register File (40_register_file.md, 10_state.md section 6) -/

/-- R34: the fields view and the byte view are one storage, each the other's inverse, and each byte is
the number its fields spell. -/
def Obligations.FieldCodecRoundTrips : Prop :=
  (∀ f : Fields, decodeFields (encodeFields f) = f) ∧
  (∀ rf : RegFile, encodeFields (decodeFields rf) = rf) ∧
  (∀ f : Fields,
    (encodeFields f)[0].toNat = f.reset.toNat + 8 * f.onOff.toNat + 16 * f.c74.toNat ∧
    (encodeFields f)[1] = f.intensity ∧
    (encodeFields f)[2].toNat = f.periodIndex.toNat + 16 * f.mode.toNat + 64 * f.g76.toNat ∧
    (encodeFields f)[3] = f.rsvd)

/-- R80 (spec decision D7): the value a store keeps, as a number; and storing it again keeps it. -/
def Obligations.SanitiseClampsConfig : Prop :=
  ∀ v : Byte,
    (sanitise 2 v).toNat = 64 * (v.toNat / 64) + 16 * min (v.toNat / 16 % 4) 2 + min (v.toNat % 16) 9 ∧
    sanitise 0 v = v ∧ sanitise 1 v = v ∧ sanitise 3 v = v ∧
    ∀ i, sanitise i (sanitise i v) = sanitise i v

/-- What a read by index finds after a store by index, both clamped (R43, R78, R79, R85). -/
def Obligations.RegisterReadAfterWrite : Prop :=
  ∀ (rf : RegFile) (i j : Nat) (v : Byte),
    rfGet (rfSet rf i v) j = if min i 3 = min j 3 then sanitise (effective i) v else rfGet rf j

/-- R82: what each field setter leaves, read back by the getters, with the byte's other fields and the
file's other bytes. -/
def Obligations.FieldSettersReadBack : Prop :=
  ∀ (rf : RegFile) (n : Nat), configLegal rf →
    (getPeriod (setPeriodField n rf)).toNat = min (n % 16) 9 ∧
    getMode (setPeriodField n rf) = getMode rf ∧
    configUnused (setPeriodField n rf)[2] = configUnused rf[2] ∧
    (getMode (setModeField n rf)).toNat = min (n % 4) 2 ∧
    getPeriod (setModeField n rf) = getPeriod rf ∧
    configUnused (setModeField n rf)[2] = configUnused rf[2] ∧
    (getIntensity (setIntensityField n rf)).toNat = n % 256 ∧
    (getOnOff (setOnOffField n rf) = true ↔ n % 2 = 1) ∧
    getReset (setOnOffField n rf) = getReset rf ∧
    ctrlUnnamed (setOnOffField n rf)[0] = ctrlUnnamed rf[0] ∧
    (∀ (j : Nat) (hj : j < 4),
      (j ≠ 2 → (setPeriodField n rf)[j] = rf[j] ∧ (setModeField n rf)[j] = rf[j]) ∧
      (j ≠ 1 → (setIntensityField n rf)[j] = rf[j]) ∧
      (j ≠ 0 → (setOnOffField n rf)[j] = rf[j]))

/-- The controller's `setMode` and `setPeriod` (R75) are one-byte writes of CONFIG, and the byte they
store has the mode and the period they name. -/
def Obligations.PseudoConfigWritesStoreBothFields : Prop :=
  ∀ m p : Nat, m ≤ 2 → p ≤ 9 →
    decodeEvent (pseudoSetMode m p) = .wr1 2 (BitVec.ofNat 8 (16 * m + p)) ∧
    pseudoSetPeriod p m = pseudoSetMode m p ∧
    (modeField (sanitise 2 (BitVec.ofNat 8 (16 * m + p)))).toNat = m ∧
    (periodField (sanitise 2 (BitVec.ofNat 8 (16 * m + p)))).toNat = p

/-- The Period Table, strictly rising (10_state.md section 4). -/
def Obligations.PeriodTableContents : Prop :=
  Config.periodTable.toList.map BitVec.toNat =
    [64000, 125000, 250000, 500000, 750000, 1000000, 1500000, 2000000, 3000000, 4000000] ∧
  Config.periodTable.toList.Pairwise (fun a b => a.toNat < b.toNat)

/-! ### Clock and intervals (42_waveform_engine.md section 1) -/

/-- R109: `passed` by its signed form and by its modular form, strict (spec decision D12), and right for
every true signed distance in the horizon. -/
def Obligations.PassedIsWraparoundSafe : Prop :=
  (∀ now d : Clock, passed now d = true ↔ 0 < (now - d).toInt) ∧
  (∀ now d : Clock,
    passed now d = true ↔ 1 ≤ (now - d).toNat ∧ (now - d).toNat ≤ 2 ^ 31 - 1) ∧
  (∀ d : Clock, passed d d = false) ∧
  (∀ (d : Clock) (e : Int), -(2 ^ 31) ≤ e → e ≤ 2 ^ 31 - 1 →
    (passed (d + BitVec.ofInt 32 e) d = true ↔ 0 < e))

/-- The event intervals of every Period Table entry, for `PHASE_DIV = 4` (42_waveform_engine.md
section 4, the table; log 11). -/
def Obligations.IntervalsOfTheTable : Prop :=
  Config.periodTable.toList.map (blinkInterval Config.phaseDiv) =
    [16000, 31250, 62500, 125000, 187500, 250000, 375000, 500000, 750000, 1000000] ∧
  Config.periodTable.toList.map (pulseInterval Config.phaseDiv) =
    [1000, 1953, 3906, 7812, 11718, 15625, 23437, 31250, 46875, 62500]

/-- A deadline set `iv` microseconds ahead is found passed after `e` microseconds exactly when `e` is
at least `iv + 1` (70_reset_and_hazards.md section 4), within the horizon of section 3. -/
def Obligations.EventSpacingLowerBound : Prop :=
  ∀ (t0 : Clock) (iv e : Nat), iv ≤ 1000000 → e ≤ 2 ^ 31 - 1 →
    (passed (t0 + BitVec.ofNat 32 e) (deadline t0 iv) = true ↔ iv + 1 ≤ e)

/-! ### TICK with no write pending -/

/-- R99: the tick that serves a select caches the addressed byte and does not reconfigure: the waveform
and the output are those of the same tick with nothing pending. -/
def Obligations.TickServesSelect : Prop :=
  ∀ (now : Clock) (s : State), configLegal s.rf → s.tx.txState = .awaitResponse →
    ∃ t u, exec (.tick now) s = .next t ∧
      exec (.tick now) { s with tx := { s.tx with txState := .idle } } = .next u ∧
      t = { u with respCache := rfGet s.rf s.tx.latchedIndex.toNat } ∧
      tickFrame s t

/-- R117 (spec decision D11): with `onOff = 0` a tick forces the output to 0, whatever the mode and the intensity. -/
def Obligations.TickOffForcesZero : Prop :=
  ∀ (now : Clock) (s : State),
    configLegal s.rf → s.tx.txState ≠ .applyWrite → getOnOff s.rf = false →
    ∃ t, exec (.tick now) s = .next t ∧ t.wave = { s.wave with cur := 0 } ∧ t.pwmDuty = 0 ∧
      tickFrame s t

/-- R118: in STEADY the output is the configured intensity on every tick. -/
def Obligations.TickSteadyTracksIntensity : Prop :=
  ∀ (now : Clock) (s : State),
    configLegal s.rf → s.tx.txState ≠ .applyWrite → getOnOff s.rf = true →
    modeOf (getMode s.rf) = some .steady →
    ∃ t, exec (.tick now) s = .next t ∧
      t.wave = { s.wave with cur := (getIntensity s.rf).setWidth 16 } ∧
      t.pwmDuty = getIntensity s.rf ∧ tickFrame s t

/-- R119 (spec decision D22): in BLINK a tick past the deadline toggles and reschedules from its own time; any other tick
changes nothing of the waveform. -/
def Obligations.TickBlinkToggles : Prop :=
  ∀ (now : Clock) (s : State),
    configLegal s.rf → s.tx.txState ≠ .applyWrite → getOnOff s.rf = true →
    modeOf (getMode s.rf) = some .blink →
    ∃ t, exec (.tick now) s = .next t ∧ tickFrame s t ∧
      (passed now s.wave.next = true →
        t.wave =
          { s.wave with
            cur := if s.wave.cur = 0 then (getIntensity s.rf).setWidth 16 else 0
            next := now + BitVec.ofNat 32 (s.wave.actualPeriod.toNat / 4) }) ∧
      (passed now s.wave.next = false → t.wave = s.wave)

/-- R120 (spec decision D29): in PULSE a tick past the deadline adds the step, clamps at either bound (the upper tested
first) and flips the step there, and reschedules from its own time; any other tick changes nothing of
the waveform. The invariant rules out sums no run reaches. -/
def Obligations.TickPulseStepsAndBounces : Prop :=
  ∀ (now : Clock) (s : State),
    Inv s → s.tx.txState ≠ .applyWrite → getOnOff s.rf = true →
    modeOf (getMode s.rf) = some .pulse →
    ∃ t, exec (.tick now) s = .next t ∧ tickFrame s t ∧
      (passed now s.wave.next = false → t.wave = s.wave) ∧
      (passed now s.wave.next = true →
        t.wave.actualPeriod = s.wave.actualPeriod ∧
        t.wave.next = now + BitVec.ofNat 32 (s.wave.actualPeriod.toNat / 4 / 16) ∧
        ((getIntensity s.rf).toNat ≤ s.wave.cur.toInt + s.wave.step.toInt →
          t.wave.cur.toInt = (getIntensity s.rf).toNat ∧ t.wave.step.toInt = -s.wave.step.toInt) ∧
        (s.wave.cur.toInt + s.wave.step.toInt < (getIntensity s.rf).toNat →
          s.wave.cur.toInt + s.wave.step.toInt ≤ 0 →
          t.wave.cur = 0 ∧ t.wave.step.toInt = -s.wave.step.toInt) ∧
        (s.wave.cur.toInt + s.wave.step.toInt < (getIntensity s.rf).toNat →
          0 < s.wave.cur.toInt + s.wave.step.toInt →
          t.wave.cur.toInt = s.wave.cur.toInt + s.wave.step.toInt ∧ t.wave.step = s.wave.step))

/-! ### TICK with a write pending -/

/-- R44 (spec decision D21): where each payload byte of a burst lands. Registers 0 to 2 take the byte that falls on
them, sanitised; register 3 takes the last byte if the burst reaches index 3 or beyond; no other
register changes, and neither the cache nor the buffer's data does. -/
def Obligations.TickStoresTheBurst : Prop :=
  ∀ (now : Clock) (s : State),
    configLegal s.rf → s.tx.txState = .applyWrite → 0 < s.tx.payloadLen.val →
    ¬ (s.tx.latchedIndex = 0 ∧ s.tx.payload[0] = 0x07) →
    ∃ t, exec (.tick now) s = .next t ∧ t.tx.txState = .idle ∧ sameBufferData s t ∧
      sameEnvironment s t ∧ t.respCache = s.respCache ∧
      (∀ (j : Fin Config.nreg) (b : Byte), j.val < 3 → s.tx.latchedIndex.toNat ≤ j.val →
        (validPayload s.tx)[j.val - s.tx.latchedIndex.toNat]? = some b →
        t.rf[j] = sanitise j b) ∧
      (∀ j : Fin Config.nreg, j.val < 3 →
        (j.val < s.tx.latchedIndex.toNat ∨
          s.tx.latchedIndex.toNat + s.tx.payloadLen.val ≤ j.val) →
        t.rf[j] = s.rf[j]) ∧
      (∀ b : Byte, 3 < s.tx.latchedIndex.toNat + s.tx.payloadLen.val →
        (validPayload s.tx).getLast? = some b → t.rf[3] = b) ∧
      (s.tx.latchedIndex.toNat + s.tx.payloadLen.val ≤ 3 → t.rf[3] = s.rf[3])

/-- R113, R114 (spec decision D9 for PULSE's 0): every applied write, a reset among them and whichever
register it touched, resolves the period again and restarts BLINK and PULSE from 0 with a fresh
deadline, which the same tick finds not passed, so that tick outputs 0; in STEADY step and deadline
stay. -/
def Obligations.EveryAppliedWriteReconfigures : Prop :=
  ∀ (now : Clock) (s : State), configLegal s.rf → s.tx.txState = .applyWrite →
    ∃ t, exec (.tick now) s = .next t ∧
      periodOf (getPeriod t.rf) = some t.wave.actualPeriod ∧
      (modeOf (getMode t.rf) = some .steady →
        t.wave.step = s.wave.step ∧ t.wave.next = s.wave.next ∧
        t.wave.cur.toInt = if getOnOff t.rf then ((getIntensity t.rf).toNat : Int) else 0) ∧
      (modeOf (getMode t.rf) = some .blink →
        t.wave.cur = 0 ∧ t.wave.step = s.wave.step ∧ t.pwmDuty = 0 ∧
        t.wave.next = now + BitVec.ofNat 32 (t.wave.actualPeriod.toNat / 4)) ∧
      (modeOf (getMode t.rf) = some .pulse →
        t.wave.cur = 0 ∧ t.wave.step = BitVec.ofNat 16 ((getIntensity t.rf).toNat / 16) ∧
        t.pwmDuty = 0 ∧
        t.wave.next = now + BitVec.ofNat 32 (t.wave.actualPeriod.toNat / 4 / 16))

/-- R100, R159 (spec decisions D5, D6, D20): the tick that serves a reset write, whatever its length and
the state before. -/
def Obligations.SoftResetEndState : Prop :=
  ∀ (now : Clock) (s : State),
    s.tx.txState = .applyWrite → s.tx.latchedIndex = 0 → s.tx.payload[0] = 0x07 →
    exec (.tick now) s =
      .next
        { s with
          rf := #v[0x08, 0x00, 0x06, 0x00]
          tx := { s.tx with txState := .idle }
          wave := { s.wave with cur := 0, actualPeriod := 1500000 }
          pwmDuty := 0 }

/-- 93_implementation_defined.md U5: a tick has no meaning exactly where CONFIG is out of range once the
pending work is applied. It is the only form the model stops on (log 5). -/
def Obligations.TickIsRefusedExactlyOutOfRange : Prop :=
  ∀ (now : Clock) (s : State),
    (exec (.tick now) s = .refused .configOutOfRange ↔ ¬ configLegal (rfAfterService s)) ∧
    (configLegal (rfAfterService s) → ∃ t, exec (.tick now) s = .next t ∧ t.rf = rfAfterService s)

/-- What one tick guarantees at its end, whatever was pending (43_output_driver_and_idle_tick.md). -/
def Obligations.TickEndGuarantees : Prop :=
  ∀ (now : Clock) (s : State), Inv s →
    ∃ t, exec (.tick now) s = .next t ∧ t.tx.txState = .idle ∧
      (t.pwmDuty.toNat : Int) = t.wave.cur.toInt ∧
      (getOnOff t.rf = false → t.pwmDuty = 0) ∧
      (getOnOff t.rf = true → modeOf (getMode t.rf) = some .steady →
        t.pwmDuty = getIntensity t.rf) ∧
      configLegal t.rf ∧ periodResolved t

/-- R129: the Output Driver clamps to 0..255 and changes nothing else. -/
def Obligations.OutputDriverClamps : Prop :=
  ∀ (v : I16) (s : State),
    (v.toInt < 0 → (odWrite v s).pwmDuty = 0) ∧
    (255 < v.toInt → (odWrite v s).pwmDuty = 255) ∧
    (0 ≤ v.toInt → v.toInt ≤ 255 → ((odWrite v s).pwmDuty.toNat : Int) = v.toInt) ∧
    odWrite v s = { s with pwmDuty := (odWrite v s).pwmDuty }

/-! ### Power-on (70_reset_and_hazards.md section 1) -/

/-- POR from every state (70_reset_and_hazards.md section 1; outside the Register File by the spec's
decision D19). What is left unspecified there is unconstrained here. That the schedule `events` and the
record `responses` stay is the model's choice, not the spec's word (log 1, log 14). -/
def Obligations.PorGivesTheBootState : Prop :=
  ∀ s : State,
    ∃ t, exec .por s = .next t ∧ t.rf = #v[0x08, 0x00, 0x06, 0x00] ∧ t.tx.txState = .idle ∧
      t.wave.actualPeriod = 1500000 ∧ t.wave.cur = 0 ∧ t.events = s.events ∧
      t.responses = s.responses

/-- R156: the state after reset, by bytes and by fields, and the 0 its first tick puts out. `txState`,
`cur` and `actualPeriod` are the values of R36 (spec decision D19). -/
def Obligations.ResetStateIsTheBootState : Prop :=
  State.reset.rf = #v[0x08, 0x00, 0x06, 0x00] ∧ getReset State.reset.rf = 0 ∧
  getOnOff State.reset.rf = true ∧ getIntensity State.reset.rf = 0 ∧
  getPeriod State.reset.rf = 6 ∧ modeOf (getMode State.reset.rf) = some .steady ∧
  periodOf (getPeriod State.reset.rf) = some 1500000 ∧
  State.reset.tx.txState = .idle ∧ State.reset.wave.cur = 0 ∧
  State.reset.wave.actualPeriod = 1500000 ∧
  ∀ now : Clock, ∃ t, exec (.tick now) State.reset = .next t ∧ t.pwmDuty = 0

/-- The first tick after a power-on with nothing pending outputs 0, whatever the output was before
(70_reset_and_hazards.md section 2). -/
def Obligations.FirstTickAfterPorOutputsZero : Prop :=
  ∀ (s : State) (now : Clock) (rest : List Event), s.events = .por :: .tick now :: rest →
    ∃ t, runSteps 2 s = .next t ∧ t.pwmDuty = 0 ∧ t.rf = #v[0x08, 0x00, 0x06, 0x00] ∧
      t.events = rest

/-! ### The whole machine -/

/-- The invariant holds after power-on (10_state.md R35 and section 7). -/
def Obligations.InvAtReset : Prop := Inv State.reset

/-- Every step from a state that meets the invariant keeps it: the stored fields stay legal, the period
stays resolved, a pending write is never empty, and `cur` and `step` stay in their ranges. -/
def Obligations.EveryStepKeepsInv : Prop :=
  ∀ s t : State, Inv s → step s = .next t → Inv t

/-- R137: from a state that meets the invariant every event completes; nothing is fatal, and no sequence
of transactions can wedge the block. -/
def Obligations.NothingIsFatal : Prop :=
  ∀ (k : Nat) (s : State), Inv s → ∃ t, runSteps k s = .next t ∧ Inv t

/-- The next-state column of the transition table of `txState`, complete for every state and event
(41_transaction_handler.md section 3). -/
def Obligations.TransitionTable : Prop :=
  ∀ (s : State) (e : Event) (rest : List Event), Inv s → s.events = e :: rest →
    ∃ t, step s = .next t ∧ t.tx.txState = txTable s.tx.txState e

/-- R39: which context may write what. -/
def Obligations.ContextsWriteOnlyWhatTheyOwn : Prop :=
  ∀ (s t : State) (rest : List Event),
    (∀ bytes, s.events = .rx bytes :: rest → step s = .next t →
      t.rf = s.rf ∧ t.wave = s.wave ∧ t.respCache = s.respCache ∧ t.pwmDuty = s.pwmDuty ∧
        t.responses = s.responses) ∧
    (s.events = .rq :: rest → step s = .next t →
      t.rf = s.rf ∧ t.wave = s.wave ∧ t.respCache = s.respCache ∧ t.pwmDuty = s.pwmDuty ∧
        sameBufferData s t) ∧
    (∀ now, s.events = .tick now :: rest → step s = .next t →
      sameBufferData s t ∧ t.responses = s.responses)

/-- Between power-ons the Register File and `actualPeriod` change only in a tick that finds a write
pending, and the cache only in a tick that finds a select pending (10_state.md section 8,
20_memory.md section 4). -/
def Obligations.OnlyServedWorkMutates : Prop :=
  ∀ (s t : State) (e : Event) (rest : List Event),
    s.events = e :: rest → e ≠ .por → step s = .next t →
    ((t.rf ≠ s.rf ∨ t.wave.actualPeriod ≠ s.wave.actualPeriod) →
      s.tx.txState = .applyWrite ∧ ∃ now, e = .tick now) ∧
    (t.respCache ≠ s.respCache → s.tx.txState = .awaitResponse ∧ ∃ now, e = .tick now)

/-- Under the premise "between any two of `RX` (well formed) and `RQ` there is a `TICK`" no transaction
ever meets pending work, so none is lost (70_reset_and_hazards.md section 3). -/
def Obligations.HazardFreeSchedulesLoseNothing : Prop :=
  ∀ (k : Nat) (s t : State) (e : Event) (rest : List Event),
    s.tx.txState = .idle → hazardFree false s.events = true → runSteps k s = .next t →
    t.events = e :: rest → usesBuffer e = true → t.tx.txState = .idle

/-- What is never read before it is written makes no difference: states that differ only there step to
states that differ only there, and never in the output, the response or the Register File
(42_waveform_engine.md section 4, 70_reset_and_hazards.md section 1). -/
def Obligations.UnreadItemsAreUnobservable : Prop :=
  ∀ a b : State, agreeOnLive a b → outcomesAgree (step a) (step b)

/-- The source's scenario "write, then read back" (95_test_vectors.md E8) for every index and byte: the
sequence WR, TICK, SEL, TICK, RD answers the sanitised byte. -/
def Obligations.WriteThenReadBack : Prop :=
  ∀ (s : State) (idx v : Byte) (t1 t2 : Clock) (rest : List Event),
    Inv s → ¬ (idx = 0x00 ∧ v = 0x07) →
    s.events = .rx [idx, v] :: .tick t1 :: .rx [idx] :: .tick t2 :: .rq :: rest →
    ∃ t, runSteps 5 s = .next t ∧ t.events = rest ∧
      t.responses = s.responses ++ [[sanitise (effective idx.toNat) v]]

/-- The source's "period round trip" (95_test_vectors.md E3): after `setMode`/`setPeriod` and a tick the
field holds the index named and the resolved duration is its Period Table entry. -/
def Obligations.PeriodWriteResolves : Prop :=
  ∀ (s : State) (m p : Nat) (now : Clock) (rest : List Event),
    Inv s → m ≤ 2 → p ≤ 9 → s.events = pseudoSetMode m p :: .tick now :: rest →
    ∃ t, runSteps 2 s = .next t ∧ t.events = rest ∧ (getPeriod t.rf).toNat = p ∧
      (getMode t.rf).toNat = m ∧ Config.periodTable[p]? = some t.wave.actualPeriod

/-- R158: a reset write followed by any query (select, tick, read) answers the canonical reset state, and
the output is 0, whatever ran before. -/
def Obligations.ResetThenQuery : Prop :=
  ∀ (s : State) (i : Byte) (t1 t2 : Clock) (rest : List Event),
    s.events = .rx [0x00, 0x07] :: .tick t1 :: .rx [i] :: .tick t2 :: .rq :: rest →
    ∃ t, runSteps 5 s = .next t ∧ t.events = rest ∧
      t.rf = #v[0x08, 0x00, 0x06, 0x00] ∧ t.wave.actualPeriod = 1500000 ∧ t.wave.cur = 0 ∧
      t.pwmDuty = 0 ∧
      t.responses =
        s.responses ++
          [[if i = 0 then 0x08 else if i = 1 then 0x00 else if i = 2 then 0x06 else 0x00]]

/-! ### Trajectories (42_waveform_engine.md section 4), for every `PHASE_DIV` -/

/-- PULSE: from a fresh ramp, after any sequence of ticks the level is that of the number of events they
fired, in closed form, never outside `0..I`, and the step is up before the turn and down after it. It
holds for every divisor `d`; this hardware's TICK is the one with `PHASE_DIV`. -/
def Obligations.PulseTrajectory : Prop :=
  (∀ (now : Clock) (s : State), exec (.tick now) s = idleTick Config.phaseDiv now s) ∧
  ∀ (d : Nat) (nows : List Clock) (s : State),
    configLegal s.rf → s.tx.txState = .idle → getOnOff s.rf = true →
    modeOf (getMode s.rf) = some .pulse →
    s.wave.cur = 0 → s.wave.step = BitVec.ofNat 16 ((getIntensity s.rf).toNat / 16) →
    ∃ t, tickRun d nows s = .next t ∧ t.rf = s.rf ∧ t.tx = s.tx ∧
      t.wave.cur.toInt = pulseLevel (getIntensity s.rf).toNat (eventsFired d nows s) ∧
      t.wave.step.toInt = pulseStepAt (getIntensity s.rf).toNat (eventsFired d nows s) ∧
      (nows ≠ [] → t.pwmDuty.toNat = pulseLevel (getIntensity s.rf).toNat (eventsFired d nows s)) ∧
      pulseLevel (getIntensity s.rf).toNat (eventsFired d nows s) ≤ (getIntensity s.rf).toNat

/-- BLINK: from a fresh cycle, after any sequence of ticks the level is `I` after an odd number of fired
events and 0 after an even one, for every divisor `d`. -/
def Obligations.BlinkTrajectory : Prop :=
  ∀ (d : Nat) (nows : List Clock) (s : State),
    configLegal s.rf → s.tx.txState = .idle → getOnOff s.rf = true →
    modeOf (getMode s.rf) = some .blink → s.wave.cur = 0 →
    ∃ t, tickRun d nows s = .next t ∧ t.rf = s.rf ∧ t.tx = s.tx ∧
      t.wave.cur.toInt = blinkLevel (getIntensity s.rf).toNat (eventsFired d nows s) ∧
      (nows ≠ [] → t.pwmDuty.toNat = blinkLevel (getIntensity s.rf).toNat (eventsFired d nows s))

/-! ### The clock and tick-rate premises (70_reset_and_hazards.md section 3) -/

/-- Under the premises of R166, in the run of any timed schedule from any state that meets the invariant,
every TICK's comparison with a followed deadline answers the truth: a trajectory event fires exactly in
the ticks whose true time is after the deadline, across any number of counter wraps. The true times and
instants are the model's way to state the premises (log 19). -/
def Obligations.ComparisonsAreTrueUnderTheClockPremises : Prop :=
  ∀ (D start : Nat) (sched : List Timed) (s : State),
    Inv s → s.events = sched.map Prod.snd → (∀ x ∈ sched, start ≤ x.1) → denotesDeadline D start s →
    clockPremises D sched s → alongRun comparesTruly D sched s = true

/-- Outside premise (ii) of R166: an overdue deadline reads as not passed from `2^31` microseconds after it
until the counter has come round, and as passed again from there on. -/
def Obligations.OverdueDeadlineStallsUntilTheCounterComesRound : Prop :=
  ∀ (d : Clock) (e : Nat),
    (horizon < e → e ≤ 2 ^ 32 → passed (d + BitVec.ofNat 32 e) d = false) ∧
    (2 ^ 32 < e → e ≤ 2 ^ 32 + horizon → passed (d + BitVec.ofNat 32 e) d = true)
end

