-- ==== Sys2Proof/Laws/PerInstr.lean ====
section
/-! SUPPORT. A statement about every operation as syntax, one lemma per constructor: how many bytes its
encoding puts on the bus (R60 to R62, R70). -/

namespace Sys2Proof

/-- The lengths a well-formed operation's transaction may have. -/
def Laws.BusLength.Statement (i : Instr) : Prop :=
  i.WellFormed →
    match i with
    | .sel _ => (busBytes i).length = 1
    | .wr1 _ _ => (busBytes i).length = 2
    | .wr2 _ _ _ => (busBytes i).length = 3
    | .wr3 _ _ _ _ => (busBytes i).length = 4
    | .wr4 _ _ _ _ _ => (busBytes i).length = 5
    | .rst _ => 2 ≤ (busBytes i).length ∧ (busBytes i).length ≤ 5
    | .dropEmpty => (busBytes i).length = 0
    | .dropOverlong _ => 6 ≤ (busBytes i).length
    | .rd => (busBytes i).length = 0
    | .tick _ => (busBytes i).length = 0
    | .por => (busBytes i).length = 0

theorem Laws.BusLength.sel (idx : Byte) : Laws.BusLength.Statement (.sel idx) := fun _ => rfl

theorem Laws.BusLength.wr1 (idx p0 : Byte) : Laws.BusLength.Statement (.wr1 idx p0) := fun _ => rfl

theorem Laws.BusLength.wr2 (idx p0 p1 : Byte) : Laws.BusLength.Statement (.wr2 idx p0 p1) :=
  fun _ => rfl

theorem Laws.BusLength.wr3 (idx p0 p1 p2 : Byte) :
    Laws.BusLength.Statement (.wr3 idx p0 p1 p2) := fun _ => rfl

theorem Laws.BusLength.wr4 (idx p0 p1 p2 p3 : Byte) :
    Laws.BusLength.Statement (.wr4 idx p0 p1 p2 p3) := fun _ => rfl

theorem Laws.BusLength.rst (extra : List Byte) : Laws.BusLength.Statement (.rst extra) := by
  intro h
  have h4 : extra.length + 1 ≤ 4 := by
    by_contra hc
    simp [Instr.WellFormed, Instr.illFormed?, hc] at h
  simp only [busBytes, List.length_cons]
  omega

theorem Laws.BusLength.dropEmpty : Laws.BusLength.Statement .dropEmpty := fun _ => rfl

theorem Laws.BusLength.dropOverlong (bytes : List Byte) :
    Laws.BusLength.Statement (.dropOverlong bytes) := by
  intro h
  have h6 : 1 + 4 < bytes.length := by
    by_contra hc
    simp [Instr.WellFormed, Instr.illFormed?, hc] at h
  simp only [busBytes]
  omega

theorem Laws.BusLength.rd : Laws.BusLength.Statement .rd := fun _ => rfl

theorem Laws.BusLength.tick (now : Clock) : Laws.BusLength.Statement (.tick now) := fun _ => rfl

theorem Laws.BusLength.por : Laws.BusLength.Statement .por := fun _ => rfl

end Sys2Proof
end

