-- ==== Sys2Proof/Laws/State.lean ====
section
/-! SUPPORT. The parameters as numerals, and the field lemmas: what each named update of State changes and what it leaves, each by rfl. -/

namespace Sys2Proof

/-! ### The parameters as numerals, for arithmetic -/

@[simp] theorem Config.nreg_eq : Config.nreg = 4 := rfl
@[simp] theorem Config.payloadMax_eq : Config.payloadMax = 4 := rfl
@[simp] theorem Config.clockBits_eq : Config.clockBits = 32 := rfl
@[simp] theorem Config.phaseDiv_eq : Config.phaseDiv = 4 := rfl
@[simp] theorem Config.pulseLevels_eq : Config.pulseLevels = 16 := rfl
@[simp] theorem Config.resetMagic_eq : Config.resetMagic = 7 := rfl
@[simp] theorem Config.resetPeriod_eq : Config.resetPeriod = 1500000 := by decide

end Sys2Proof

namespace Sys2Proof.Machine

section
variable (s : State) (idx : Byte) (bytes : List Byte) (v : I16)

/-! ### toIdle -/

@[simp] theorem toIdle_rf : (toIdle s).rf = s.rf := rfl
@[simp] theorem toIdle_txState : (toIdle s).tx.txState = .idle := rfl
@[simp] theorem toIdle_latchedIndex : (toIdle s).tx.latchedIndex = s.tx.latchedIndex := rfl
@[simp] theorem toIdle_payload : (toIdle s).tx.payload = s.tx.payload := rfl
@[simp] theorem toIdle_payloadLen : (toIdle s).tx.payloadLen = s.tx.payloadLen := rfl
@[simp] theorem toIdle_respCache : (toIdle s).respCache = s.respCache := rfl
@[simp] theorem toIdle_wave : (toIdle s).wave = s.wave := rfl
@[simp] theorem toIdle_pwmDuty : (toIdle s).pwmDuty = s.pwmDuty := rfl
@[simp] theorem toIdle_events : (toIdle s).events = s.events := rfl
@[simp] theorem toIdle_responses : (toIdle s).responses = s.responses := rfl
@[simp] theorem toIdle_porCount : (toIdle s).porCount = s.porCount := rfl

/-- An idle handler goes to IDLE by staying. -/
theorem toIdle_of_idle {s : State} (h : s.tx.txState = .idle) : toIdle s = s := by
  unfold toIdle
  rw [← h]

/-! ### latchSelect -/

@[simp] theorem latchSelect_rf : (latchSelect idx s).rf = s.rf := rfl
@[simp] theorem latchSelect_txState : (latchSelect idx s).tx.txState = .awaitResponse := rfl
@[simp] theorem latchSelect_latchedIndex : (latchSelect idx s).tx.latchedIndex = idx := rfl
@[simp] theorem latchSelect_payload : (latchSelect idx s).tx.payload = s.tx.payload := rfl
@[simp] theorem latchSelect_payloadLen : (latchSelect idx s).tx.payloadLen = s.tx.payloadLen := rfl
@[simp] theorem latchSelect_respCache : (latchSelect idx s).respCache = s.respCache := rfl
@[simp] theorem latchSelect_wave : (latchSelect idx s).wave = s.wave := rfl
@[simp] theorem latchSelect_pwmDuty : (latchSelect idx s).pwmDuty = s.pwmDuty := rfl
@[simp] theorem latchSelect_events : (latchSelect idx s).events = s.events := rfl
@[simp] theorem latchSelect_responses : (latchSelect idx s).responses = s.responses := rfl
@[simp] theorem latchSelect_porCount : (latchSelect idx s).porCount = s.porCount := rfl

/-! ### latchWrite -/

@[simp] theorem latchWrite_rf : (latchWrite idx bytes s).rf = s.rf := rfl
@[simp] theorem latchWrite_txState : (latchWrite idx bytes s).tx.txState = .applyWrite := rfl
@[simp] theorem latchWrite_latchedIndex : (latchWrite idx bytes s).tx.latchedIndex = idx := rfl
@[simp] theorem latchWrite_payload :
    (latchWrite idx bytes s).tx.payload = payloadWith bytes s.tx.payload := rfl
@[simp] theorem latchWrite_payloadLen :
    (latchWrite idx bytes s).tx.payloadLen.val = min bytes.length Config.payloadMax := rfl
@[simp] theorem latchWrite_respCache : (latchWrite idx bytes s).respCache = s.respCache := rfl
@[simp] theorem latchWrite_wave : (latchWrite idx bytes s).wave = s.wave := rfl
@[simp] theorem latchWrite_pwmDuty : (latchWrite idx bytes s).pwmDuty = s.pwmDuty := rfl
@[simp] theorem latchWrite_events : (latchWrite idx bytes s).events = s.events := rfl
@[simp] theorem latchWrite_responses : (latchWrite idx bytes s).responses = s.responses := rfl
@[simp] theorem latchWrite_porCount : (latchWrite idx bytes s).porCount = s.porCount := rfl

/-! ### serveSelect -/

@[simp] theorem serveSelect_rf : (serveSelect s).rf = s.rf := rfl
@[simp] theorem serveSelect_txState : (serveSelect s).tx.txState = .idle := rfl
@[simp] theorem serveSelect_latchedIndex : (serveSelect s).tx.latchedIndex = s.tx.latchedIndex := rfl
@[simp] theorem serveSelect_payload : (serveSelect s).tx.payload = s.tx.payload := rfl
@[simp] theorem serveSelect_payloadLen : (serveSelect s).tx.payloadLen = s.tx.payloadLen := rfl
@[simp] theorem serveSelect_respCache :
    (serveSelect s).respCache = rfGet s.rf s.tx.latchedIndex.toNat := rfl
@[simp] theorem serveSelect_wave : (serveSelect s).wave = s.wave := rfl
@[simp] theorem serveSelect_pwmDuty : (serveSelect s).pwmDuty = s.pwmDuty := rfl
@[simp] theorem serveSelect_events : (serveSelect s).events = s.events := rfl
@[simp] theorem serveSelect_responses : (serveSelect s).responses = s.responses := rfl
@[simp] theorem serveSelect_porCount : (serveSelect s).porCount = s.porCount := rfl

/-! ### odWrite -/

@[simp] theorem odWrite_rf : (odWrite v s).rf = s.rf := rfl
@[simp] theorem odWrite_tx : (odWrite v s).tx = s.tx := rfl
@[simp] theorem odWrite_respCache : (odWrite v s).respCache = s.respCache := rfl
@[simp] theorem odWrite_wave : (odWrite v s).wave = s.wave := rfl
@[simp] theorem odWrite_pwmDuty :
    (odWrite v s).pwmDuty = BitVec.ofInt 8 (min (max v.toInt 0) 255) := rfl
@[simp] theorem odWrite_events : (odWrite v s).events = s.events := rfl
@[simp] theorem odWrite_responses : (odWrite v s).responses = s.responses := rfl
@[simp] theorem odWrite_porCount : (odWrite v s).porCount = s.porCount := rfl

/-! ### answerRead -/

@[simp] theorem answerRead_rf : (answerRead s).rf = s.rf := rfl
@[simp] theorem answerRead_txState : (answerRead s).tx.txState = .idle := rfl
@[simp] theorem answerRead_latchedIndex : (answerRead s).tx.latchedIndex = s.tx.latchedIndex := rfl
@[simp] theorem answerRead_payload : (answerRead s).tx.payload = s.tx.payload := rfl
@[simp] theorem answerRead_payloadLen : (answerRead s).tx.payloadLen = s.tx.payloadLen := rfl
@[simp] theorem answerRead_respCache : (answerRead s).respCache = s.respCache := rfl
@[simp] theorem answerRead_wave : (answerRead s).wave = s.wave := rfl
@[simp] theorem answerRead_pwmDuty : (answerRead s).pwmDuty = s.pwmDuty := rfl
@[simp] theorem answerRead_events : (answerRead s).events = s.events := rfl
@[simp] theorem answerRead_responses :
    (answerRead s).responses = s.responses ++ [[s.respCache]] := rfl
@[simp] theorem answerRead_porCount : (answerRead s).porCount = s.porCount := rfl

/-! ### bootState: the values R155 gives, and what stays -/

@[simp] theorem bootState_rf : (bootState s).rf = Config.resetVector := by
  simp only [bootState]; decide
@[simp] theorem bootState_txState : (bootState s).tx.txState = .idle := rfl
@[simp] theorem bootState_cur : (bootState s).wave.cur = 0 := rfl
@[simp] theorem bootState_actualPeriod : (bootState s).wave.actualPeriod = 1500000 := by
  simp only [bootState]; decide
@[simp] theorem bootState_events : (bootState s).events = s.events := rfl
@[simp] theorem bootState_responses : (bootState s).responses = s.responses := rfl
@[simp] theorem bootState_porCount : (bootState s).porCount = s.porCount + 1 := rfl

/-! ### response -/

@[simp] theorem response_eq : response s = [s.respCache] := rfl

end

section
variable (s s' : State) (f : State → Host.Outcome State Fault Refusal)

/-! ### andThen -/

@[simp] theorem andThen_next : andThen (.next s) f = f s := rfl
@[simp] theorem andThen_refused (r : Refusal) : andThen (.refused r) f = .refused r := rfl

/-- A sequence answers a next state exactly when both halves do. -/
theorem andThen_eq_next {o : Host.Outcome State Fault Refusal} :
    andThen o f = .next s' ↔ ∃ s, o = .next s ∧ f s = .next s' := by
  cases o <;> simp [andThen]

end

end Sys2Proof.Machine
end

