-- ==== Sys2Proof/Laws/RegisterFile.lean ====
section
/-! SUPPORT. The bitfields, the Register File operations and the payload buffer: what each reads and
writes, once. -/

namespace Sys2Proof.Machine

/-! ### Bitfields -/

@[simp] theorem effective_val (n : Nat) : (effective n).val = min n 3 := rfl

/-- An index a byte of the file has names that byte. -/
theorem effective_of_lt {n : Nat} (h : n < 4) : effective n = ⟨n, h⟩ :=
  Fin.ext (by simp only [effective_val]; omega)

@[simp] theorem periodField_packConfig (g m : BitVec 2) (p : BitVec 4) :
    periodField (packConfig g m p) = p := by
  revert g m p; decide

@[simp] theorem modeField_packConfig (g m : BitVec 2) (p : BitVec 4) :
    modeField (packConfig g m p) = m := by
  revert g m p; decide

@[simp] theorem configUnused_packConfig (g m : BitVec 2) (p : BitVec 4) :
    configUnused (packConfig g m p) = g := by
  revert g m p; decide

@[simp] theorem resetField_packCtrl (c : BitVec 4) (o : Bool) (r : BitVec 3) :
    resetField (packCtrl c o r) = r := by
  revert c o r; decide

@[simp] theorem onOffField_packCtrl (c : BitVec 4) (o : Bool) (r : BitVec 3) :
    onOffField (packCtrl c o r) = o := by
  revert c o r; decide

@[simp] theorem ctrlUnnamed_packCtrl (c : BitVec 4) (o : Bool) (r : BitVec 3) :
    ctrlUnnamed (packCtrl c o r) = c := by
  revert c o r; decide

@[simp] theorem clampPeriod_toNat (v : BitVec 4) : (clampPeriod v).toNat = min v.toNat 9 := by
  revert v; decide

@[simp] theorem clampMode_toNat (v : BitVec 2) : (clampMode v).toNat = min v.toNat 2 := by
  revert v; decide

/-- Every byte but CONFIG is stored whole. -/
theorem sanitise_of_ne {i : Fin Config.nreg} (h : i.val ≠ 2) (v : Byte) : sanitise i v = v :=
  if_neg h

/-- CONFIG is stored with both fields clamped. -/
theorem sanitise_config (v : Byte) :
    sanitise 2 v =
      packConfig (configUnused v) (clampMode (modeField v)) (clampPeriod (periodField v)) :=
  if_pos rfl

/-! ### Register File operations -/

/-- A store changes the byte its index names and no other. -/
theorem rfSet_getElem (rf : RegFile) (n : Nat) (v : Byte) (j : Nat) (hj : j < Config.nreg) :
    (rfSet rf n v)[j] = if j = min n 3 then sanitise (effective n) v else rf[j] := by
  unfold rfSet
  simp only [Vector.getElem_set, effective_val, @eq_comm _ j]

theorem rfReset_eq : rfReset = Config.resetVector := by decide

/-- R84 for a store. -/
theorem configLegal_rfSet {rf : RegFile} (h : configLegal rf) (n : Nat) (v : Byte) :
    configLegal (rfSet rf n v) := by
  unfold configLegal getPeriod getMode at *
  rw [rfSet_getElem]
  split
  next h2 =>
    have he : effective n = 2 := Fin.ext (by simp only [effective_val]; exact h2.symm)
    rw [he, sanitise_config]
    simp
  next => exact h

/-- R84 for the reset. -/
theorem configLegal_rfReset : configLegal rfReset := by decide

theorem configLegal_storeBurst (bytes : List Byte) :
    ∀ {rf : RegFile} (n : Nat), configLegal rf → configLegal (storeBurst n bytes rf) := by
  induction bytes with
  | nil => exact fun _ h => h
  | cons b bs ih => exact fun n h => ih (n + 1) (configLegal_rfSet h n b)

theorem configLegal_applyPending {rf : RegFile} (h : configLegal rf) (tx : TxBuffer) :
    configLegal (applyPending tx rf) := by
  unfold applyPending
  split
  · exact configLegal_rfReset
  · exact configLegal_storeBurst _ _ h

theorem configLegal_rfAfterService {s : State} (h : configLegal s.rf) :
    configLegal (rfAfterService s) := by
  unfold rfAfterService
  split
  · exact configLegal_applyPending h _
  · exact h
  · exact h

/-! ### What CONFIG selects -/

theorem modeOf_isSome_iff (m : BitVec 2) : (modeOf m).isSome = true ↔ m.toNat ≤ 2 := by
  revert m; decide

theorem periodOf_isSome_iff (k : BitVec 4) : (periodOf k).isSome = true ↔ k.toNat ≤ 9 := by
  revert k; decide

/-- CONFIG selects a mode and a period exactly when it is legal. -/
theorem getConfig?_isSome_iff (rf : RegFile) : (getConfig? rf).isSome = true ↔ configLegal rf := by
  unfold configLegal getConfig?
  rw [← modeOf_isSome_iff, ← periodOf_isSome_iff]
  cases modeOf (getMode rf) <;> cases periodOf (getPeriod rf) <;> simp

theorem getConfig?_eq_some_iff {rf : RegFile} {m : Mode} {P : U32} :
    getConfig? rf = some (m, P) ↔
      modeOf (getMode rf) = some m ∧ periodOf (getPeriod rf) = some P := by
  unfold getConfig?
  cases modeOf (getMode rf) <;> cases periodOf (getPeriod rf) <;> simp

/-- A legal CONFIG, taken apart. -/
theorem configLegal.exists_config {rf : RegFile} (h : configLegal rf) :
    ∃ m P, getConfig? rf = some (m, P) :=
  let ⟨⟨m, P⟩, hc⟩ := Option.isSome_iff_exists.mp ((getConfig?_isSome_iff rf).mpr h)
  ⟨m, P, hc⟩

theorem getConfig?_eq_none_iff {rf : RegFile} : getConfig? rf = none ↔ ¬ configLegal rf := by
  rw [← getConfig?_isSome_iff, Bool.not_eq_true, Option.isSome_eq_false_iff, Option.isNone_iff_eq_none]

/-! ### The payload buffer -/

/-- The payload holds `payloadLen` bytes. -/
theorem validPayload_length (tx : TxBuffer) : (validPayload tx).length = tx.payloadLen.val := by
  have h : tx.payloadLen.val < 5 := tx.payloadLen.isLt
  simp only [validPayload, List.length_take, Vector.length_toList, Config.payloadMax_eq]
  omega

/-- The buffer hands back exactly the bytes an arrival put in. -/
theorem validPayload_latchWrite (idx : Byte) {bytes : List Byte}
    (h : bytes.length ≤ Config.payloadMax) (s : State) :
    validPayload (latchWrite idx bytes s).tx = bytes := by
  unfold validPayload
  simp only [latchWrite_payload, latchWrite_payloadLen, payloadWith, Nat.min_eq_left h]
  apply List.ext_getElem
  · simp only [List.length_take, Vector.length_toList]; omega
  · intro k h1 h2
    simp only [List.getElem_take, Vector.getElem_toList, Vector.getElem_ofFn, List.getD,
      List.getElem?_eq_getElem h2, Option.getD_some]

/-- The reset test after an arrival looks at the raw index and the first byte. -/
theorem isReset_latchWrite (idx b : Byte) (bytes : List Byte) (s : State) :
    isReset (latchWrite idx (b :: bytes) s).tx = (idx == 0 && b == Config.resetMagic) := by
  simp [isReset, latchWrite, payloadWith]

end Sys2Proof.Machine
end

