-- ==== Sys2Proof/Laws/Tick.lean ====
section
/-! SUPPORT. TICK as one equation, and the inversion of a step: everything either can do, once. -/

namespace Sys2Proof.Machine

/-- The Waveform State after the service phase, when CONFIG selects `m` and `P`. -/
def waveAfterService (d : Nat) (m : Mode) (P : U32) (now : Clock) (s : State) : Wave :=
  match s.tx.txState with
  | .applyWrite => reconfigureWave d m P (getIntensity (rfAfterService s)) now s.wave
  | .awaitResponse => s.wave
  | .idle => s.wave

/-- The Waveform State at the end of the tick. -/
def waveAfterTick (d : Nat) (m : Mode) (P : U32) (now : Clock) (s : State) : Wave :=
  wtickWave d m (getOnOff (rfAfterService s)) (getIntensity (rfAfterService s)) now
    (waveAfterService d m P now s)

/-- `respCache` at the end of the tick. -/
def respAfterTick (s : State) : Byte :=
  match s.tx.txState with
  | .awaitResponse => rfGet s.rf s.tx.latchedIndex.toNat
  | .applyWrite => s.respCache
  | .idle => s.respCache

/-- The state a TICK ends in, when CONFIG selects `m` and `P` after the service phase. -/
def tickResult (d : Nat) (m : Mode) (P : U32) (now : Clock) (s : State) : State :=
  odWrite (waveAfterTick d m P now s).cur
    { toIdle s with
      rf := rfAfterService s
      respCache := respAfterTick s
      wave := waveAfterTick d m P now s }

/-- TICK is one equation: it ends in `tickResult` where CONFIG is legal after the service phase, and is
refused elsewhere. -/
theorem idleTick_eq (d : Nat) (now : Clock) (s : State) :
    idleTick d now s =
      match getConfig? (rfAfterService s) with
      | some (m, P) => .next (tickResult d m P now s)
      | none => .refused .configOutOfRange := by
  unfold idleTick service rfAfterService tickResult waveAfterTick waveAfterService respAfterTick
    rfAfterService
  cases hs : s.tx.txState with
  | idle =>
    cases hc : getConfig? s.rf with
    | none => simp [wtick, hc]
    | some c => simp [wtick, hc, toIdle_of_idle hs]
  | awaitResponse =>
    cases hc : getConfig? s.rf with
    | none => simp [wtick, hc]
    | some c => simp [wtick, hc, serveSelect, toIdle]
  | applyWrite =>
    cases hc : getConfig? (applyPending s.tx s.rf) with
    | none => simp [serveWrite, reconfigure, hc]
    | some c => simp [serveWrite, reconfigure, wtick, hc, toIdle]

theorem idleTick_of_config {d : Nat} {now : Clock} {s : State} {m : Mode} {P : U32}
    (h : getConfig? (rfAfterService s) = some (m, P)) :
    idleTick d now s = .next (tickResult d m P now s) := by
  rw [idleTick_eq, h]

/-- A TICK that answers a next state is `tickResult` for what CONFIG selects. -/
theorem idleTick_eq_next {d : Nat} {now : Clock} {s t : State} (h : idleTick d now s = .next t) :
    ∃ m P, getConfig? (rfAfterService s) = some (m, P) ∧ t = tickResult d m P now s := by
  rw [idleTick_eq] at h
  split at h
  next m P hc => exact ⟨m, P, hc, (Host.Outcome.next.inj h).symm⟩
  next => exact absurd h (by simp)

section
variable (d : Nat) (m : Mode) (P : U32) (now : Clock) (s : State)

@[simp] theorem tickResult_rf : (tickResult d m P now s).rf = rfAfterService s := rfl
@[simp] theorem tickResult_txState : (tickResult d m P now s).tx.txState = .idle := rfl
@[simp] theorem tickResult_latchedIndex :
    (tickResult d m P now s).tx.latchedIndex = s.tx.latchedIndex := rfl
@[simp] theorem tickResult_payload : (tickResult d m P now s).tx.payload = s.tx.payload := rfl
@[simp] theorem tickResult_payloadLen :
    (tickResult d m P now s).tx.payloadLen = s.tx.payloadLen := rfl
@[simp] theorem tickResult_respCache : (tickResult d m P now s).respCache = respAfterTick s := rfl
@[simp] theorem tickResult_wave : (tickResult d m P now s).wave = waveAfterTick d m P now s := rfl
@[simp] theorem tickResult_pwmDuty :
    (tickResult d m P now s).pwmDuty =
      BitVec.ofInt 8 (min (max (waveAfterTick d m P now s).cur.toInt 0) 255) := rfl
@[simp] theorem tickResult_events : (tickResult d m P now s).events = s.events := rfl
@[simp] theorem tickResult_responses : (tickResult d m P now s).responses = s.responses := rfl
@[simp] theorem tickResult_porCount : (tickResult d m P now s).porCount = s.porCount := rfl

end

/-! ### The service phase, by what is pending -/

theorem rfAfterService_of_noWrite {s : State} (h : s.tx.txState ≠ .applyWrite) :
    rfAfterService s = s.rf := by
  unfold rfAfterService; split <;> simp_all

theorem waveAfterService_of_noWrite {d : Nat} {m : Mode} {P : U32} {now : Clock} {s : State}
    (h : s.tx.txState ≠ .applyWrite) : waveAfterService d m P now s = s.wave := by
  unfold waveAfterService; split <;> simp_all

theorem rfAfterService_of_write {s : State} (h : s.tx.txState = .applyWrite) :
    rfAfterService s = applyPending s.tx s.rf := by
  simp [rfAfterService, h]

theorem waveAfterService_of_write {d : Nat} {m : Mode} {P : U32} {now : Clock} {s : State}
    (h : s.tx.txState = .applyWrite) :
    waveAfterService d m P now s =
      reconfigureWave d m P (getIntensity (rfAfterService s)) now s.wave := by
  simp [waveAfterService, h]

/-! ### The step -/

/-- A step with an event scheduled runs that event's operation on the rest. -/
theorem step_of_events {s : State} {e : Event} {rest : List Event} (h : s.events = e :: rest) :
    step s = exec (decodeEvent e) { s with events := rest } := by
  simp [step, h]

theorem exec_tick (now : Clock) (s : State) :
    exec (.tick now) s = idleTick Config.phaseDiv now s := rfl

/-- A TICK that leaves CONFIG legal after its service phase completes in `tickResult`. -/
theorem exec_tick_of_legal (now : Clock) {s : State} (h : configLegal (rfAfterService s)) :
    ∃ m P, getConfig? (rfAfterService s) = some (m, P) ∧
      exec (.tick now) s = .next (tickResult Config.phaseDiv m P now s) :=
  let ⟨m, P, hc⟩ := h.exists_config
  ⟨m, P, hc, idleTick_of_config hc⟩

/-- The frame of a tick that serves no write. -/
theorem tickResult_frame (d : Nat) (m : Mode) (P : U32) (now : Clock) {s : State}
    (h : s.tx.txState ≠ .applyWrite) : tickFrame s (tickResult d m P now s) :=
  ⟨rfAfterService_of_noWrite h, rfl, ⟨rfl, rfl, rfl⟩, ⟨rfl, rfl, rfl⟩,
    fun hi => by simp [respAfterTick, hi], rfl⟩

/-- A run takes its first step and goes on. -/
theorem runSteps_succ_of_next {k : Nat} {s t : State} (h : step s = .next t) :
    runSteps (k + 1) s = runSteps k t := by
  simp [runSteps, h]

/-- What an operation does, by kind: nothing, a buffered select or write, a response, a tick, or a
power-on. -/
theorem exec_cases {i : Instr} {s t : State} (h : exec i s = .next t) :
    (t = s ∧ (i = .dropEmpty ∨ ∃ bytes, i = .dropOverlong bytes)) ∨
      (∃ idx, i = .sel idx ∧ t = latchSelect idx s) ∨
      (∃ idx bytes, 0 < bytes.length ∧ t = latchWrite idx bytes s) ∨
      (i = .rd ∧ t = answerRead s) ∨
      (∃ now m P, i = .tick now ∧ getConfig? (rfAfterService s) = some (m, P) ∧
        t = tickResult Config.phaseDiv m P now s) ∨
      (i = .por ∧ t = bootState s) := by
  cases i with
  | sel idx => exact .inr (.inl ⟨idx, rfl, (Host.Outcome.next.inj h).symm⟩)
  | wr1 idx p0 => exact .inr (.inr (.inl ⟨idx, _, by simp, (Host.Outcome.next.inj h).symm⟩))
  | wr2 idx p0 p1 => exact .inr (.inr (.inl ⟨idx, _, by simp, (Host.Outcome.next.inj h).symm⟩))
  | wr3 idx p0 p1 p2 => exact .inr (.inr (.inl ⟨idx, _, by simp, (Host.Outcome.next.inj h).symm⟩))
  | wr4 idx p0 p1 p2 p3 =>
    exact .inr (.inr (.inl ⟨idx, _, by simp, (Host.Outcome.next.inj h).symm⟩))
  | rst extra => exact .inr (.inr (.inl ⟨_, _, by simp, (Host.Outcome.next.inj h).symm⟩))
  | dropEmpty => exact .inl ⟨(Host.Outcome.next.inj h).symm, .inl rfl⟩
  | dropOverlong bytes => exact .inl ⟨(Host.Outcome.next.inj h).symm, .inr ⟨bytes, rfl⟩⟩
  | rd => exact .inr (.inr (.inr (.inl ⟨rfl, (Host.Outcome.next.inj h).symm⟩)))
  | tick now =>
    obtain ⟨m, P, hc, rfl⟩ := idleTick_eq_next h
    exact .inr (.inr (.inr (.inr (.inl ⟨now, m, P, rfl, hc, rfl⟩))))
  | por => exact .inr (.inr (.inr (.inr (.inr ⟨rfl, (Host.Outcome.next.inj h).symm⟩))))

/-! ### Timed runs -/

section
variable (D time : Nat) (s t : State)

@[simp] theorem deadlineAfter_rx (bytes : List Byte) :
    deadlineAfter D (time, .rx bytes) s t = D := rfl
@[simp] theorem deadlineAfter_rq : deadlineAfter D (time, .rq) s t = D := rfl
@[simp] theorem deadlineAfter_por : deadlineAfter D (time, .por) s t = D := rfl
@[simp] theorem deadlineAfter_tick (now : Clock) :
    deadlineAfter D (time, .tick now) s t =
      if s.tx.txState = .applyWrite ∨ passed now s.wave.next = true then time + eventInterval t else D :=
  rfl

/-- The run goes on from a step that completes. -/
theorem alongRun_cons_of_next (p : Nat → Timed → State → Bool) (x : Timed) (rest : List Timed)
    (h : step s = .next t) :
    alongRun p D (x :: rest) s = (p D x s && alongRun p (deadlineAfter D x s t) rest t) := by
  simp [alongRun, h]

end

end Sys2Proof.Machine
end

