-- ==== Sys2Proof/Laws/Waveform.lean ====
section
/-! SUPPORT. The Waveform Engine's functions, read as integers. -/

namespace Sys2Proof.Machine

/-- A zero-extended intensity reads as itself. -/
@[simp] theorem intensity16_toInt (I : Byte) : (intensity16 I).toInt = I.toNat := by
  have h := I.isLt
  unfold intensity16
  rw [BitVec.toInt_eq_toNat_of_lt] <;> simp <;> omega

/-- The PULSE step size reads as `I / 16`. -/
theorem pulseStep_toInt (I : Byte) :
    (BitVec.ofNat 16 (I.toNat / 16)).toInt = ((I.toNat / 16 : Nat) : Int) := by
  have h := I.isLt
  rw [BitVec.toInt_eq_toNat_of_lt] <;> simp <;> omega

/-- A PULSE step going down reads as `-(I / 16)`. -/
theorem neg_pulseStep_toInt (I : Byte) :
    (-BitVec.ofNat 16 (I.toNat / 16)).toInt = -((I.toNat / 16 : Nat) : Int) := by
  have h := I.isLt
  rw [BitVec.toInt_neg, pulseStep_toInt]
  norm_num [Int.bmod]
  omega

/-- Every resolved period is one of the table's. -/
theorem periodOf_le {k : BitVec 4} {P : U32} (h : periodOf k = some P) : P.toNat ≤ 4000000 := by
  have hall : ∀ k : BitVec 4, ((periodOf k).getD 0).toNat ≤ 4000000 := by decide
  simpa [h] using hall k

/-- No event interval of a resolved period is longer than a second (R123). -/
theorem eventInterval_le {s : State} (h : periodResolved s) : eventInterval s ≤ 1000000 := by
  have hP := periodOf_le h
  unfold eventInterval blinkInterval pulseInterval
  simp only [Config.phaseDiv_eq, Config.pulseLevels_eq]
  split <;> omega

/-- A deadline just set is not passed (R123: no interval is longer than 1,000,000). -/
theorem passed_deadline_self (now : Clock) {iv : Nat} (h : iv ≤ 1000000) :
    passed now (deadline now iv) = false := by
  have hiv : (BitVec.ofNat 32 iv).toInt = iv := by
    rw [BitVec.toInt_eq_toNat_of_lt] <;> simp <;> omega
  have hsub : now - deadline now iv = -BitVec.ofNat 32 iv := sub_add_cancel_left _ _
  simp [passed, hsub, BitVec.toInt_neg, hiv, Int.bmod]
  omega

/-- A PULSE event keeps `cur` in `0..I` (R125). -/
theorem pulseBounce_cur_range {I : Byte} (w : Wave) :
    0 ≤ (pulseBounce I w).cur.toInt ∧ (pulseBounce I w).cur.toInt ≤ I.toNat := by
  have hI := I.isLt
  unfold pulseBounce
  simp only
  split
  · simp
  · split
    · simp
    · simp only [BitVec.toInt_ofInt, Int.bmod]
      omega

/-- A value in `0..255` goes through the Output Driver's clamp unchanged. -/
theorem odWrite_toNat {v : I16} (h0 : 0 ≤ v.toInt) (h1 : v.toInt ≤ 255) (s : State) :
    ((odWrite v s).pwmDuty.toNat : Int) = v.toInt := by
  unfold odWrite
  simp only [BitVec.toNat_ofInt]
  omega

end Sys2Proof.Machine
end

