-- ==== Sys2Proof/Tests/Slice0.lean ====
section
/-! SUPPORT. The model's own tests. Expected values come from the spec's vectors (95_test_vectors.md: E,
V, P) or from its formats, never from the model. Witnesses show that the hypotheses of each statement can
be met together. -/

namespace Sys2Proof.Tests

open Sys2Proof.Machine

/-- The power-on state of P1 to P4, with zeros where they write `??`. -/
def boot : State where
  rf := #v[0x08, 0x00, 0x06, 0x00]
  tx := { txState := .idle, latchedIndex := 0, payload := #v[0, 0, 0, 0], payloadLen := 0 }
  respCache := 0
  wave := { cur := 0, step := 0, actualPeriod := 1500000, next := 0 }
  pwmDuty := 0
  events := []
  responses := []
  porCount := 1

/-- `boot` with another Register File. -/
def withRf (b0 b1 b2 b3 : Byte) : State := { boot with rf := #v[b0, b1, b2, b3] }

/-- `boot` with a pending select. -/
def selecting (idx : Byte) : State :=
  { boot with tx := { boot.tx with txState := .awaitResponse, latchedIndex := idx } }

/-- `s` with a pending write of `n` valid bytes. -/
def writing (s : State) (idx : Byte) (bytes : Vector Byte 4) (n : Fin 5) : State :=
  { s with
    tx := { txState := .applyWrite, latchedIndex := idx, payload := bytes, payloadLen := n } }

/-- The PULSE state of P2 after step 6: ramp at 0, deadline 1023437. -/
def pulsing : State :=
  { withRf 0x08 0xA0 0x26 0x00 with
    wave := { cur := 0, step := 10, actualPeriod := 1500000, next := 1023437 } }

/-- `pulsing` at another place of its trajectory. -/
def pulsingAt (cur step : I16) : State :=
  { pulsing with wave := { cur := cur, step := step, actualPeriod := 1500000, next := 1023437 } }

/-- The BLINK state of P3 after step 4: off half, deadline 0xFFFF3E80. -/
def blinking : State :=
  { withRf 0x08 0x64 0x10 0x00 with
    wave := { cur := 0, step := 0, actualPeriod := 64000, next := 0xFFFF3E80 } }

/-- A test of the next state. -/
def after (o : Host.Outcome State Fault Refusal) (f : State → Bool) : Bool :=
  match o with
  | .next t => f t
  | .fault _ => false
  | .refused _ => false

/-! ### WellFormed: an ill-formed term for each check -/

/-- R69: `00 07` is RST, so WR does not spell it. -/
theorem test_illFormed_resetPattern :
    Instr.illFormed? (.wr1 0 7) = some .resetPatternInWrite ∧
    Instr.illFormed? (.wr2 0 7 1) = some .resetPatternInWrite ∧
    Instr.illFormed? (.wr3 0 7 1 2) = some .resetPatternInWrite ∧
    Instr.illFormed? (.wr4 0 7 1 2 3) = some .resetPatternInWrite := by decide

/-- R70: a 6-byte transaction is no RST. -/
theorem test_illFormed_resetTooLong :
    Instr.illFormed? (.rst [1, 2, 3, 4]) = some .resetTooLong := by decide

/-- R70: a 5-byte transaction is not dropped. -/
theorem test_illFormed_dropTooShort :
    Instr.illFormed? (.dropOverlong [0, 8, 1, 2, 3]) = some .dropTooShort := by decide

/-! ### Decode: a word for each constructor, from the formats of R60 to R64 -/

theorem test_decode_sel : decode .inbound [0b00000010] = .sel 2 := by decide
theorem test_decode_wr1 : decode .inbound [0b00000001, 0b10100000] = .wr1 1 160 := by decide
theorem test_decode_wr2 : decode .inbound [0x00, 0x08, 0x07] = .wr2 0 8 7 := by decide
theorem test_decode_wr3 : decode .inbound [0x02, 0x3F, 0xAA, 0x55] = .wr3 2 0x3F 0xAA 0x55 := by
  decide
theorem test_decode_wr4 : decode .inbound [0x00, 0x08, 0x80, 0x15, 0x00] = .wr4 0 8 0x80 0x15 0 := by
  decide
theorem test_decode_rst :
    decode .inbound [0b00000000, 0b00000111] = .rst [] ∧
    decode .inbound [0x00, 0x07, 0xFF] = .rst [0xFF] ∧
    decode .inbound [0x00, 0x07, 1, 2, 3] = .rst [1, 2, 3] ∧
    decode .inbound [0x00, 0x0F] = .wr1 0 0x0F := by decide
theorem test_decode_drop :
    decode .inbound [] = .dropEmpty ∧
    decode .inbound [0, 7, 1, 2, 3, 4] = .dropOverlong [0, 7, 1, 2, 3, 4] := by decide
theorem test_decode_events :
    decodeEvent .rq = .rd ∧ decodeEvent (.tick 0xFFFF3E81) = .tick 0xFFFF3E81 ∧
    decodeEvent .por = .por := by decide

/-- The table's RST row: encoding `00000000 00000111`, match `0x0007` on 16 bits. -/
theorem test_tableWord :
    decodeTableWord 16 0x0007 = some (.rst []) ∧ decodeTableWord 8 0xC8 = some (.sel 200) ∧
    decodeTableWord 24 0x023FAA = some (.wr2 2 0x3F 0xAA) ∧
    decodeTableWord 0 0 = some .dropEmpty ∧
    decodeTableWord 48 0 = some (.dropOverlong [0, 0, 0, 0, 0, 0]) := by decide

/-- The fetched word runs as the first event after reset (R94). -/
theorem test_withFetchWord :
    after (step (State.reset.withFetchWord 16 0x0007)) fun t =>
      t.tx.txState = .applyWrite ∧ t.tx.latchedIndex = 0 ∧ t.events = [] := by decide

/-! ### Shared operations -/

/-- V1. -/
theorem test_sanitise_config :
    [0x00, 0x06, 0x09, 0x0A, 0x0F, 0x10, 0x20, 0x26, 0x29, 0x30, 0x39, 0x3F, 0x40, 0x7A, 0xC8,
      0xFF].map (sanitise 2) =
    [0x00, 0x06, 0x09, 0x09, 0x09, 0x10, 0x20, 0x26, 0x29, 0x20, 0x29, 0x29, 0x40, 0x69, 0xC8,
      0xE9] := by decide

/-- V2. -/
theorem test_registerIndexClamp :
    rfGet boot.rf 0 = 0x08 ∧ rfGet boot.rf 255 = 0x00 ∧
    rfSet boot.rf 4 0x55 = #v[0x08, 0x00, 0x06, 0x55] ∧
    rfSet boot.rf 0 0x0F = #v[0x0F, 0x00, 0x06, 0x00] := by decide

/-- E1. -/
theorem test_rfReset : rfReset = #v[0x08, 0x00, 0x06, 0x00] := by decide

/-- V5. -/
theorem test_passed :
    [(0x00000005, 0x00000005), (0x00000006, 0x00000005), (0x00000005, 0x00000006),
      (0xFFFFFA05, 0x00003884), (0x00000010, 0xFFFFFFF0), (0x7FFFFFFF, 0x00000000),
      (0x80000000, 0x00000000), (0x00000000, 0x80000001)].map (fun p => passed p.1 p.2) =
    [false, true, false, false, true, true, false, true] := by decide

/-- V7, row 3: the deadline sum wraps. -/
theorem test_reconfigureBlink_wraps :
    (reconfigureWave 4 .blink 4000000 0x64 0xFFFFFFFF boot.wave).next = 0x000F423F := by decide

/-- V7, row 6: the step of the largest intensity; `onOff` is not consulted. -/
theorem test_reconfigurePulse :
    reconfigureWave 4 .pulse 4000000 0xFF 0 boot.wave =
      { cur := 0, step := 15, actualPeriod := 4000000, next := 62500 } := by decide

/-- V8: 102 is clamped to 100, and -2 to 0, with the step flipped. -/
theorem test_pulseBounce :
    pulseBounce 100 { boot.wave with cur := 96, step := 6 } =
      { boot.wave with cur := 100, step := -6 } ∧
    pulseBounce 100 { boot.wave with cur := 4, step := -6 } =
      { boot.wave with cur := 0, step := 6 } := by decide

/-- P3, steps 10 and 12: across the counter wrap. -/
theorem test_tickBlink_wrap :
    tickBlink 4 100 0xFFFFFA05 { blinking.wave with next := 0x00003884 } =
      { blinking.wave with next := 0x00003884 } ∧
    tickBlink 4 100 0x00003885 { blinking.wave with next := 0x00003884 } =
      { blinking.wave with cur := 100, next := 0x00007705 } := by decide

/-- V10. -/
theorem test_odWrite :
    (odWrite (-2) boot).pwmDuty = 0 ∧ (odWrite 160 boot).pwmDuty = 160 ∧
    (odWrite 270 boot).pwmDuty = 255 := by decide

/-- R121's worked cases for `I` = 100 and `I` = 255. -/
theorem test_pulseLevel :
    [0, 16, 17, 18, 33, 34, 35].map (pulseLevel 100) = [0, 96, 100, 94, 4, 0, 6] ∧
    [16, 17, 18].map (pulseLevel 255) = [240, 255, 240] ∧ pulseLevel 15 7 = 0 := by decide

/-! ### One step of each operation -/

/-- R92: 255 is latched as 255. -/
theorem test_sel : after (exec (.sel 255) boot) fun t =>
    t.tx.txState = .awaitResponse ∧ t.tx.latchedIndex = 255 ∧ t.rf = boot.rf := by decide

/-- V4: `W[2, 200]` from IDLE. -/
theorem test_wr1 : after (exec (.wr1 2 200) boot) fun t =>
    t.tx.txState = .applyWrite ∧ t.tx.latchedIndex = 2 ∧ validPayload t.tx = [200] ∧
      t.rf = boot.rf := by decide

theorem test_wr2 : after (exec (.wr2 0 0x08 0x07) boot) fun t =>
    t.tx.latchedIndex = 0 ∧ validPayload t.tx = [0x08, 0x07] := by decide

/-- P4, step 1. -/
theorem test_wr3 : after (exec (.wr3 2 0x3F 0xAA 0x55) boot) fun t =>
    t.tx.payloadLen = 3 ∧ validPayload t.tx = [0x3F, 0xAA, 0x55] := by decide

/-- P4, step 14. -/
theorem test_wr4 : after (exec (.wr4 0 0x08 0x80 0x15 0x00) boot) fun t =>
    t.tx.payloadLen = 4 ∧ validPayload t.tx = [0x08, 0x80, 0x15, 0x00] := by decide

/-- R94: the Register File is unchanged until the tick. -/
theorem test_rst : after (exec (.rst [0xFF]) (withRf 0x00 0xA0 0x26 0x00)) fun t =>
    validPayload t.tx = [0x07, 0xFF] ∧ t.rf = #v[0x00, 0xA0, 0x26, 0x00] := by decide

/-- V4: a malformed transaction leaves a pending write pending. -/
theorem test_drop :
    (after (exec .dropEmpty (writing boot 1 #v[0x33, 0, 0, 0] 1)) fun t =>
      t = writing boot 1 #v[0x33, 0, 0, 0] 1) ∧
    (after (exec (.dropOverlong [0, 8, 1, 2, 3, 4]) (writing boot 1 #v[0x33, 0, 0, 0] 1)) fun t =>
      t = writing boot 1 #v[0x33, 0, 0, 0] 1) := by decide

/-- P4, step 8: the stale byte is answered and the pending write discarded. -/
theorem test_rd :
    after (exec .rd { writing boot 1 #v[0x77, 0, 0, 0] 1 with respCache := 0x29 }) fun t =>
      t.responses = [[0x29]] ∧ t.tx.txState = .idle ∧ t.respCache = 0x29 := by decide

/-- P4, step 2: each byte is sanitised for the register it lands on, the last one wins on byte 3, and
the tick reconfigures PULSE. -/
theorem test_tick_write :
    after (exec (.tick 10) (writing boot 2 #v[0x3F, 0xAA, 0x55, 0] 3)) fun t =>
      t.rf = #v[0x08, 0x00, 0x29, 0x55] ∧ t.wave.actualPeriod = 4000000 ∧ t.wave.next = 62510 ∧
        t.tx.txState = .idle ∧ t.pwmDuty = 0 := by decide

/-- P2, steps 7 and 8: strict at the deadline, then event 1. -/
theorem test_tick_pulse :
    (after (exec (.tick 1023437) pulsing) fun t => t.wave = pulsing.wave ∧ t.pwmDuty = 0) ∧
    (after (exec (.tick 1023438) pulsing) fun t =>
      t.wave.cur = 10 ∧ t.wave.next = 1046875 ∧ t.pwmDuty = 10) := by decide

/-- R155. -/
theorem test_por : after (exec .por (withRf 0x00 0xFF 0xE9 0x55)) fun t =>
    t.rf = #v[0x08, 0x00, 0x06, 0x00] ∧ t.tx.txState = .idle ∧ t.wave.actualPeriod = 1500000 := by
  decide

/-! ### Witnesses: each statement's hypotheses, met together -/

theorem witness_decodeOfEncode :
    Instr.WellFormed (.rst [1, 2, 3]) ∧ Instr.WellFormed (.dropOverlong [0, 0, 0, 0, 0, 0]) ∧
    Instr.WellFormed (.wr1 0 6) ∧ Instr.WellFormed (.wr4 1 7 0 0 0) := by decide

theorem witness_stepRunsTheDecodedEvent :
    ({ boot with events := [.rq, .por] } : State).events = .rq :: [.por] ∧ boot.events = [] ∧
    decodeTableWord 16 0x0007 = some (.rst []) := by decide

theorem witness_arrival :
    ¬ lengthOk [] ∧ ¬ lengthOk [0, 8, 1, 2, 3, 4] ∧ lengthOk [0, 7] ∧ lengthOk [0, 8, 1, 2, 3] ∧
    ({ boot with events := [.rx [0, 8, 1, 2, 3]] } : State).events = .rx [0, 8, 1, 2, 3] :: [] := by
  decide

theorem witness_rst : ([1, 2, 3] : List Byte).length ≤ 3 := by decide

theorem witness_payloadPast :
    (after (exec (.wr1 2 200) boot) fun _ => true) ∧ (after (exec (.wr2 2 0 0) boot) fun _ => true) ∧
    (after (exec (.wr3 2 0 0 0) boot) fun _ => true) := by decide

theorem witness_fieldSetters : configLegal (withRf 0xFF 0xFF 0xE9 0xFF).rf := by decide

theorem witness_pseudo : 2 ≤ 2 ∧ 9 ≤ 9 := by decide

/-- Both ends of the horizon of R109, and 1 microsecond either side of the deadline. -/
theorem witness_passed :
    passed ((5 : Clock) + BitVec.ofInt 32 (-(2 ^ 31))) 5 = false ∧
    passed ((5 : Clock) + BitVec.ofInt 32 (2 ^ 31 - 1)) 5 = true ∧
    passed ((5 : Clock) + BitVec.ofInt 32 1) 5 = true ∧
    passed ((5 : Clock) + BitVec.ofInt 32 (-1)) 5 = false := by decide

/-- The longest interval, 1 microsecond past it and exactly at it. -/
theorem witness_eventSpacing :
    passed ((0xFFFFFFFF : Clock) + BitVec.ofNat 32 1000001) (deadline 0xFFFFFFFF 1000000) = true ∧
    passed ((0xFFFFFFFF : Clock) + BitVec.ofNat 32 1000000) (deadline 0xFFFFFFFF 1000000) = false := by
  decide

theorem witness_tickServesSelect :
    configLegal (selecting 200).rf ∧ (selecting 200).tx.txState = .awaitResponse := by decide

theorem witness_tickOff :
    configLegal (withRf 0x00 0xFF 0x29 0).rf ∧ (withRf 0x00 0xFF 0x29 0).tx.txState ≠ .applyWrite ∧
    getOnOff (withRf 0x00 0xFF 0x29 0).rf = false := by decide

theorem witness_tickSteady :
    configLegal boot.rf ∧ boot.tx.txState ≠ .applyWrite ∧ getOnOff boot.rf = true ∧
    modeOf (getMode boot.rf) = some .steady := by decide

theorem witness_tickBlink :
    configLegal blinking.rf ∧ blinking.tx.txState ≠ .applyWrite ∧ getOnOff blinking.rf = true ∧
    modeOf (getMode blinking.rf) = some .blink ∧
    passed 0xFFFF3E81 blinking.wave.next = true ∧ passed 0xFFFF3E80 blinking.wave.next = false := by
  decide

theorem witness_tickPulse :
    Inv pulsing ∧ pulsing.tx.txState ≠ .applyWrite ∧ getOnOff pulsing.rf = true ∧
    modeOf (getMode pulsing.rf) = some .pulse ∧ passed 1023437 pulsing.wave.next = false ∧
    passed 1023438 pulsing.wave.next = true := by decide

/-- The clauses of an event: the upper bound just reached, the lower just reached, and between. -/
theorem witness_tickPulse_clauses :
    Inv (pulsingAt 150 10) ∧ Inv (pulsingAt 10 (-10)) ∧ Inv (pulsingAt 20 (-10)) := by decide

/-- A step of zero: `I` = 15, where only the lower bound is met, and `I` = 0, where both are. -/
theorem witness_tickPulse_zeroStep :
    Inv { pulsingAt 0 0 with rf := #v[0x08, 0x0F, 0x26, 0x00] } ∧
    Inv { pulsingAt 0 0 with rf := #v[0x08, 0x00, 0x26, 0x00] } := by decide

/-- A burst inside the file, one that runs past its end, and one that starts past it. -/
theorem witness_tickStores :
    (let s := writing boot 0 #v[0x08, 0x80, 0x15, 0] 3
     configLegal s.rf ∧ s.tx.txState = .applyWrite ∧ 0 < s.tx.payloadLen.val ∧
       ¬ (s.tx.latchedIndex = 0 ∧ s.tx.payload[0] = 0x07) ∧
       s.tx.latchedIndex.toNat + s.tx.payloadLen.val ≤ 3 ∧ (validPayload s.tx)[2]? = some 0x15) ∧
    (let s := writing boot 2 #v[0x3F, 0xAA, 0x55, 0] 3
     3 < s.tx.latchedIndex.toNat + s.tx.payloadLen.val ∧
       (validPayload s.tx).getLast? = some 0x55) ∧
    (let s := writing boot 255 #v[1, 2, 3, 0] 3
     3 < s.tx.latchedIndex.toNat + s.tx.payloadLen.val ∧
       (validPayload s.tx).getLast? = some 3) := by decide

/-- The three modes after an applied write. -/
theorem witness_appliedWrite :
    configLegal (writing boot 1 #v[0xA0, 0, 0, 0] 1).rf ∧
    (writing boot 1 #v[0xA0, 0, 0, 0] 1).tx.txState = .applyWrite ∧
    (after (exec (.tick 5) (writing boot 2 #v[0x06, 0, 0, 0] 1)) fun t =>
      modeOf (getMode t.rf) = some .steady) ∧
    (after (exec (.tick 5) (writing boot 2 #v[0x10, 0, 0, 0] 1)) fun t =>
      modeOf (getMode t.rf) = some .blink) ∧
    (after (exec (.tick 5) (writing boot 2 #v[0x26, 0, 0, 0] 1)) fun t =>
      modeOf (getMode t.rf) = some .pulse) := by decide

theorem witness_softReset :
    let s := writing pulsing 0 #v[0x07, 0xFF, 0, 0] 2
    s.tx.txState = .applyWrite ∧ s.tx.latchedIndex = 0 ∧ s.tx.payload[0] = 0x07 := by decide

/-- Either field of CONFIG out of range, the boundary values, and both in range. -/
theorem witness_outOfRange :
    ¬ configLegal (rfAfterService (withRf 0x08 0 0x0A 0)) ∧
    ¬ configLegal (rfAfterService (withRf 0x08 0 0x30 0)) ∧
    configLegal (rfAfterService (withRf 0x08 0 0x29 0)) := by decide

theorem witness_inv : Inv boot ∧ Inv pulsing ∧ Inv blinking := by decide

theorem witness_tickEnd :
    Inv (withRf 0x00 0xFF 0x06 0) ∧ getOnOff (withRf 0x00 0xFF 0x06 0).rf = false ∧
    Inv boot ∧ getOnOff boot.rf = true ∧ modeOf (getMode boot.rf) = some .steady := by decide

theorem witness_outputDriver :
    (-1 : I16).toInt < 0 ∧ 255 < (256 : I16).toInt ∧ (0 : I16).toInt = 0 ∧ (255 : I16).toInt ≤ 255 := by
  decide

theorem witness_everyStepKeepsInv :
    Inv { pulsing with events := [.tick 1023438] } ∧
    (after (step { pulsing with events := [.tick 1023438] }) fun t => t.wave.cur = 10) := by decide

theorem witness_transitionTable :
    Inv { boot with events := [.rx [1, 2], .rq] } ∧
    ({ boot with events := [.rx [1, 2], .rq] } : State).events = .rx [1, 2] :: [.rq] := by decide

/-- The three contexts, each with a step that completes. -/
theorem witness_contexts :
    (after (step { boot with events := [.rx [2, 200]] }) fun _ => true) ∧
    (after (step { boot with events := [.rq] }) fun _ => true) ∧
    (after (step { boot with events := [.tick 500] }) fun _ => true) := by decide

/-- A tick that changes the Register File, and one that changes the cache. -/
theorem witness_onlyServedWork :
    (let s := { writing boot 1 #v[160, 0, 0, 0] 1 with events := [.tick 500] }
     after (step s) fun t => t.rf ≠ s.rf) ∧
    (let s := { selecting 2 with events := [.tick 500] }
     after (step s) fun t => t.respCache ≠ s.respCache) ∧ Event.tick 500 ≠ .por := by decide

theorem witness_hazardFree :
    let s := { boot with events := [.rx [1, 160], .tick 200, .rx [], .rx [1], .tick 300, .rq] }
    s.tx.txState = .idle ∧ hazardFree false s.events = true ∧
    (after (runSteps 2 s) fun t => t.events = .rx [] :: [.rx [1], .tick 300, .rq]) ∧
    (after (runSteps 3 s) fun t => t.events = .rx [1] :: [.tick 300, .rq]) ∧
    usesBuffer (.rx [1]) = true := by decide

/-- Two states that differ only in what is never read: a stale deadline, step, index and payload. -/
theorem witness_agreeOnLive :
    agreeOnLive boot
      { boot with
        tx := { boot.tx with latchedIndex := 9, payload := #v[1, 2, 3, 4], payloadLen := 2 }
        wave := { boot.wave with step := 77, next := 99 } } := by
  unfold agreeOnLive; decide

theorem witness_writeThenReadBack :
    let s := { boot with
      events := [.rx [2, 200], .tick 1000, .rx [2], .tick 2000, .rq] }
    Inv s ∧ ¬ ((2 : Byte) = 0x00 ∧ (200 : Byte) = 0x07) ∧
    s.events = .rx [2, 200] :: .tick 1000 :: .rx [2] :: .tick 2000 :: .rq :: [] := by decide

theorem witness_periodWrite :
    let s := { boot with events := [pseudoSetMode 2 9, .tick 7] }
    Inv s ∧ 2 ≤ 2 ∧ 9 ≤ 9 ∧ s.events = pseudoSetMode 2 9 :: .tick 7 :: [] := by decide

theorem witness_resetThenQuery :
    let s := { pulsing with events := [.rx [0x00, 0x07], .tick 1, .rx [2], .tick 2, .rq] }
    s.events = .rx [0x00, 0x07] :: .tick 1 :: .rx [2] :: .tick 2 :: .rq :: [] := by decide

theorem witness_firstTick :
    let s := { pulsing with events := [.por, .tick 0] }
    s.events = .por :: .tick 0 :: [] := by decide

/-- A fresh ramp, with ticks that fire two events and one that fires none. -/
theorem witness_pulseTrajectory :
    configLegal pulsing.rf ∧ pulsing.tx.txState = .idle ∧ getOnOff pulsing.rf = true ∧
    modeOf (getMode pulsing.rf) = some .pulse ∧ pulsing.wave.cur = 0 ∧
    pulsing.wave.step = BitVec.ofNat 16 ((getIntensity pulsing.rf).toNat / 16) ∧
    eventsFired 4 [1023437, 1023438, 1046876] pulsing = 2 := by decide

theorem witness_blinkTrajectory :
    configLegal blinking.rf ∧ blinking.tx.txState = .idle ∧ getOnOff blinking.rf = true ∧
    modeOf (getMode blinking.rf) = some .blink ∧ blinking.wave.cur = 0 ∧
    eventsFired 4 [0xFFFF3E80, 0xFFFF3E81, 0xFFFF7D02] blinking = 2 := by decide

/-- P3's instants, counted without a wrap: a toggle, a tick on the deadline, two toggles across the wrap of
the counter at `0x100000000`, and a select between them. -/
def acrossTheWrap : List Timed :=
  [(0xFFFF3E81, .tick 0xFFFF3E81), (0xFFFF7D01, .tick 0xFFFF7D01), (0xFFFFFA04, .tick 0xFFFFFA04),
    (0xFFFFFA05, .rx [2]), (0x100003885, .tick 0x00003885)]

/-- The premises of R166, met across the wrap and at the last instant of the horizon, with the firing
each comparison finds. -/
theorem witness_clockPremises :
    (let s := { blinking with events := acrossTheWrap.map Prod.snd }
     Inv s ∧ (∀ x ∈ acrossTheWrap, 0xFFFF0000 ≤ x.1) ∧ denotesDeadline 0xFFFF3E80 0xFFFF0000 s ∧
       clockPremises 0xFFFF3E80 acrossTheWrap s) ∧
    (let late : List Timed := [(0xFFFF3E80 + horizon, .tick 0x7FFF3E7F)]
     let s := { blinking with events := late.map Prod.snd }
     clockPremises 0xFFFF3E80 late s ∧ passed 0x7FFF3E7F s.wave.next = true) := by decide

/-- One microsecond past the horizon premise (ii) fails, and so does the comparison; a sample that is not
the counter's fails premise (i). -/
theorem test_clockPremises_fail :
    (let late : List Timed := [(0xFFFF3E81 + horizon, .tick 0x7FFF3E80)]
     let s := { blinking with events := late.map Prod.snd }
     oneCounter late ∧ alongRun tickInTime 0xFFFF3E80 late s = false ∧
       alongRun comparesTruly 0xFFFF3E80 late s = false) ∧
    ¬ oneCounter [(5, .tick 6)] ∧ ¬ oneCounter [(6, .tick 6), (5, .tick 5)] := by decide

/-- Both ends of either range of an overdue deadline. -/
theorem witness_overdueDeadline :
    passed ((5 : Clock) + BitVec.ofNat 32 (horizon + 1)) 5 = false ∧
    passed ((5 : Clock) + BitVec.ofNat 32 (2 ^ 32)) 5 = false ∧
    passed ((5 : Clock) + BitVec.ofNat 32 (2 ^ 32 + 1)) 5 = true ∧
    passed ((5 : Clock) + BitVec.ofNat 32 (2 ^ 32 + horizon)) 5 = true := by decide

end Sys2Proof.Tests
end

/-! SUPPORT. The state's two views of the Register File (R34) and what each context owns (R39). -/

namespace Sys2Proof.Machine

/-! ### A byte and its bitfields -/

/-- The fields of CTRL lose none of its bits. -/
@[simp] theorem packCtrl_fields (b : Byte) :
    packCtrl (ctrlUnnamed b) (onOffField b) (resetField b) = b := by
  revert b; decide

/-- The fields of CONFIG lose none of its bits. -/
@[simp] theorem packConfig_fields (b : Byte) :
    packConfig (configUnused b) (modeField b) (periodField b) = b := by
  revert b; decide

theorem packCtrl_toNat (c : BitVec 4) (o : Bool) (r : BitVec 3) :
    (packCtrl c o r).toNat = r.toNat + 8 * o.toNat + 16 * c.toNat := by
  revert c o r; decide

theorem packConfig_toNat (g m : BitVec 2) (p : BitVec 4) :
    (packConfig g m p).toNat = p.toNat + 16 * m.toNat + 64 * g.toNat := by
  revert g m p; decide

/-! ### The two views of the Register File (R34) -/

theorem decodeFields_encodeFields (f : Fields) : decodeFields (encodeFields f) = f := by
  simp [decodeFields, encodeFields]

theorem encodeFields_decodeFields (rf : RegFile) : encodeFields (decodeFields rf) = rf := by
  apply Vector.ext
  intro i hi
  match i, hi with
  | 0, _ => exact packCtrl_fields rf[0]
  | 1, _ => rfl
  | 2, _ => exact packConfig_fields rf[2]
  | 3, _ => rfl

/-- Settles O12: each byte is its fields' sum, and no byte loses a bit to its fields. -/
theorem fieldCodecRoundTrips : Obligations.FieldCodecRoundTrips :=
  ⟨decodeFields_encodeFields, encodeFields_decodeFields, fun f =>
    ⟨packCtrl_toNat f.c74 f.onOff f.reset, rfl, packConfig_toNat f.g76 f.mode f.periodIndex, rfl⟩⟩

/-! ### What each context owns (R39) -/

theorem sameOutsideBuffer_refl (s : State) : sameOutsideBuffer s s := by
  simp [sameOutsideBuffer]

theorem latchSelect_sameOutsideBuffer (idx : Byte) (s : State) :
    sameOutsideBuffer s (latchSelect idx s) := by
  simp [sameOutsideBuffer]

theorem latchWrite_sameOutsideBuffer (idx : Byte) (bytes : List Byte) (s : State) :
    sameOutsideBuffer s (latchWrite idx bytes s) := by
  simp [sameOutsideBuffer]

theorem answerRead_sameBufferData (s : State) : sameBufferData s (answerRead s) := by
  simp [sameBufferData]

theorem tickResult_sameBufferData (d : Nat) (m : Mode) (P : U32) (now : Clock) (s : State) :
    sameBufferData s (tickResult d m P now s) := by
  simp [sameBufferData]

/-- An inbound transaction is an arrival, a DROP included: never RD, TICK or POR (R63). -/
theorem decodeInbound_ne (bytes : List Byte) :
    decodeInbound bytes ≠ .rd ∧ (∀ now, decodeInbound bytes ≠ .tick now) ∧
      decodeInbound bytes ≠ .por := by
  fun_cases decodeInbound bytes <;> simp

/-- An inbound transaction writes nothing outside the Transaction Buffer. -/
theorem exec_inbound_sameOutsideBuffer {bytes : List Byte} {s t : State}
    (h : exec (decode .inbound bytes) s = .next t) : sameOutsideBuffer s t := by
  obtain ⟨hrd, htick, hpor⟩ := decodeInbound_ne bytes
  obtain ⟨rfl, -⟩ | ⟨idx, -, rfl⟩ | ⟨idx, ps, -, rfl⟩ | ⟨hi, -⟩ | ⟨now, m, P, hi, -⟩ | ⟨hi, -⟩ :=
    exec_cases h
  · exact sameOutsideBuffer_refl t
  · exact latchSelect_sameOutsideBuffer idx s
  · exact latchWrite_sameOutsideBuffer idx ps s
  · exact absurd hi hrd
  · exact absurd hi (htick now)
  · exact absurd hi hpor

/-- Settles O39: an RX by the frame of an arrival, an RQ as `answerRead`, a TICK as `tickResult`. -/
theorem contextsWriteOnlyWhatTheyOwn : Obligations.ContextsWriteOnlyWhatTheyOwn := by
  intro s t rest
  refine ⟨fun bytes he h => ?_, fun he h => ?_, fun now he h => ?_⟩ <;> rw [step_of_events he] at h
  · obtain ⟨hrf, hresp, hwave, hpwm, -, hres, -⟩ := exec_inbound_sameOutsideBuffer h
    exact ⟨hrf, hwave, hresp, hpwm, hres⟩
  · obtain rfl : answerRead { s with events := rest } = t := Host.Outcome.next.inj h
    exact ⟨rfl, rfl, rfl, rfl, answerRead_sameBufferData _⟩
  · obtain ⟨m, P, -, rfl⟩ := idleTick_eq_next h
    exact ⟨tickResult_sameBufferData _ m P now _, rfl⟩

end Sys2Proof.Machine

/-! SUPPORT. The burst of a served write: which payload byte each register ends with (R44, R101). -/

namespace Sys2Proof.Machine

/-! ### A store, read at a register -/

theorem rfSet_getElem_effective {n : Nat} {j : Fin Config.nreg} (h : effective n = j)
    (rf : RegFile) (v : Byte) : (rfSet rf n v)[j] = sanitise j v := by
  subst h
  exact (rfSet_getElem rf n v _ (effective n).isLt).trans (if_pos rfl)

theorem rfSet_getElem_of_effective_ne {n : Nat} {j : Fin Config.nreg} (h : effective n ≠ j)
    (rf : RegFile) (v : Byte) : (rfSet rf n v)[j] = rf[j] :=
  (rfSet_getElem rf n v _ j.isLt).trans (if_neg fun hj => h (Fin.ext hj.symm))

/-! ### A burst, read at a register -/

/-- The frame of a burst: a register no byte lands on. -/
theorem storeBurst_getElem_of_effective_ne {j : Fin Config.nreg} {bytes : List Byte} {n : Nat}
    (h : ∀ k < bytes.length, effective (n + k) ≠ j) (rf : RegFile) :
    (storeBurst n bytes rf)[j] = rf[j] := by
  induction bytes generalizing n rf with
  | nil => rfl
  | cons b bs ih =>
    have htail : ∀ k < bs.length, effective (n + 1 + k) ≠ j := fun k hk => by
      rw [Nat.add_right_comm]
      exact h (k + 1) (Nat.succ_lt_succ hk)
    exact (ih htail _).trans (rfSet_getElem_of_effective_ne (h 0 (Nat.succ_pos _)) rf b)

/-- The last byte that lands on a register is the one it keeps, sanitised. -/
theorem storeBurst_getElem_of_last {j : Fin Config.nreg} {bytes : List Byte} {n k : Nat} {b : Byte}
    (hb : bytes[k]? = some b) (hk : effective (n + k) = j)
    (hlast : ∀ l < bytes.length, k < l → effective (n + l) ≠ j) (rf : RegFile) :
    (storeBurst n bytes rf)[j] = sanitise j b := by
  induction bytes generalizing n k rf with
  | nil => simp at hb
  | cons c cs ih =>
    have htail : ∀ l < cs.length, k < l + 1 → effective (n + 1 + l) ≠ j := fun l hl hkl => by
      rw [Nat.add_right_comm]
      exact hlast (l + 1) (Nat.succ_lt_succ hl) hkl
    cases k with
    | zero =>
      obtain rfl : c = b := by simpa using hb
      exact (storeBurst_getElem_of_effective_ne (fun l hl => htail l hl (Nat.succ_pos l)) _).trans
        (rfSet_getElem_effective hk rf c)
    | succ k =>
      exact ih (by simpa using hb) (by rwa [Nat.add_right_comm])
        (fun l hl hkl => htail l hl (Nat.succ_lt_succ hkl)) _

/-- Below 3 nothing is clamped: one index alone lands on the register. -/
theorem effective_eq_iff_of_lt {j : Fin Config.nreg} (hj : j.val < 3) {n : Nat} :
    effective n = j ↔ n = j.val := by
  rw [Fin.ext_iff, effective_val]
  omega

theorem effective_eq_three_iff {n : Nat} : effective n = 3 ↔ 3 ≤ n := by
  rw [Fin.ext_iff, effective_val]
  exact min_eq_right_iff

/-- Registers 0 to 2 (R44): at most one byte lands on each, and it is the one kept. -/
theorem storeBurst_getElem_of_lt {j : Fin Config.nreg} (hj : j.val < 3) {bytes : List Byte}
    {n : Nat} (hn : n ≤ j.val) {b : Byte} (hb : bytes[j.val - n]? = some b) (rf : RegFile) :
    (storeBurst n bytes rf)[j] = sanitise j b := by
  refine storeBurst_getElem_of_last hb ((effective_eq_iff_of_lt hj).mpr (by omega)) ?_ rf
  intro l _ hl
  rw [ne_eq, effective_eq_iff_of_lt hj]
  omega

/-- Registers 0 to 2 outside the burst's range of indices. -/
theorem storeBurst_getElem_of_lt_of_outside {j : Fin Config.nreg} (hj : j.val < 3)
    {bytes : List Byte} {n : Nat} (h : j.val < n ∨ n + bytes.length ≤ j.val) (rf : RegFile) :
    (storeBurst n bytes rf)[j] = rf[j] := by
  refine storeBurst_getElem_of_effective_ne (fun k hk => ?_) rf
  rw [ne_eq, effective_eq_iff_of_lt hj]
  omega

/-- Register 3 of a burst that reaches it (R44): the burst's last byte, stored whole. -/
theorem storeBurst_getElem_three {bytes : List Byte} {n : Nat} (h : 3 < n + bytes.length)
    {b : Byte} (hb : bytes.getLast? = some b) (rf : RegFile) : (storeBurst n bytes rf)[3] = b := by
  rw [List.getLast?_eq_getElem?] at hb
  have hlast : (storeBurst n bytes rf)[(3 : Fin Config.nreg)] = sanitise 3 b :=
    storeBurst_getElem_of_last hb (effective_eq_three_iff.mpr (by omega))
      (fun l hl hkl => by omega) rf
  exact hlast.trans (sanitise_of_ne (by decide) b)

/-- Register 3 of a burst that ends below it. -/
theorem storeBurst_getElem_three_of_le {bytes : List Byte} {n : Nat} (h : n + bytes.length ≤ 3)
    (rf : RegFile) : (storeBurst n bytes rf)[3] = rf[3] := by
  refine storeBurst_getElem_of_effective_ne (j := 3) (fun k hk => ?_) rf
  rw [ne_eq, effective_eq_three_iff]
  omega

/-! ### The tick that serves a write -/

theorem isReset_iff (tx : TxBuffer) :
    isReset tx = true ↔ tx.latchedIndex = 0 ∧ tx.payload[0] = 0x07 := by
  simp [isReset, Config.resetMagic]

/-- A pending write that spells no reset leaves its burst in the Register File (R101). -/
theorem rfAfterService_of_store {s : State} (hw : s.tx.txState = .applyWrite)
    (hr : ¬ (s.tx.latchedIndex = 0 ∧ s.tx.payload[0] = 0x07)) :
    rfAfterService s = storeBurst s.tx.latchedIndex.toNat (validPayload s.tx) s.rf := by
  rw [rfAfterService_of_write hw, applyPending, if_neg ((isReset_iff s.tx).not.mpr hr)]

theorem respAfterTick_of_write {s : State} (h : s.tx.txState = .applyWrite) :
    respAfterTick s = s.respCache := by
  simp [respAfterTick, h]

theorem tickResult_sameEnvironment (d : Nat) (m : Mode) (P : U32) (now : Clock) (s : State) :
    sameEnvironment s (tickResult d m P now s) := by
  simp [sameEnvironment]

/-- Settles O26: the tick ends with the burst of the payload, read at each register. -/
theorem tickStoresTheBurst : Obligations.TickStoresTheBurst := by
  intro now s hlegal hw _ hr
  obtain ⟨m, P, -, ht⟩ := exec_tick_of_legal now (configLegal_rfAfterService hlegal)
  refine ⟨_, ht, rfl, tickResult_sameBufferData _ m P now s, tickResult_sameEnvironment _ m P now s,
    respAfterTick_of_write hw, ?_⟩
  rw [tickResult_rf, rfAfterService_of_store hw hr, ← validPayload_length]
  exact ⟨fun j b hj hn hb => storeBurst_getElem_of_lt hj hn hb s.rf,
    fun j hj hout => storeBurst_getElem_of_lt_of_outside hj hout s.rf,
    fun b hreach hb => storeBurst_getElem_three hreach hb s.rf,
    fun hend => storeBurst_getElem_three_of_le hend s.rf⟩

end Sys2Proof.Machine

/-! SUPPORT. What a store keeps of a byte (R80): CONFIG's fields clamped, and clamped only once. -/

namespace Sys2Proof.Machine

/-! ### CONFIG's fields as numbers -/

theorem configUnused_toNat (v : Byte) : (configUnused v).toNat = v.toNat / 64 := by
  rw [configUnused, BitVec.extractLsb'_toNat, Nat.shiftRight_eq_div_pow]
  omega

theorem modeField_toNat (v : Byte) : (modeField v).toNat = v.toNat / 16 % 4 := by
  rw [modeField, BitVec.extractLsb'_toNat, Nat.shiftRight_eq_div_pow]

theorem periodField_toNat (v : Byte) : (periodField v).toNat = v.toNat % 16 := by
  rw [periodField, BitVec.extractLsb'_toNat, Nat.shiftRight_zero]

/-! ### Sanitising -/

@[simp] theorem clampMode_clampMode (m : BitVec 2) : clampMode (clampMode m) = clampMode m :=
  BitVec.eq_of_toNat_eq (by simp)

@[simp] theorem clampPeriod_clampPeriod (p : BitVec 4) :
    clampPeriod (clampPeriod p) = clampPeriod p :=
  BitVec.eq_of_toNat_eq (by simp)

theorem sanitise_config_toNat (v : Byte) :
    (sanitise 2 v).toNat =
      64 * (v.toNat / 64) + 16 * min (v.toNat / 16 % 4) 2 + min (v.toNat % 16) 9 := by
  rw [sanitise_config, packConfig_toNat, clampMode_toNat, clampPeriod_toNat, configUnused_toNat,
    modeField_toNat, periodField_toNat]
  ring

/-- The fields a store clamped are legal, so a second store clamps nothing. -/
theorem sanitise_sanitise (i : Fin Config.nreg) (v : Byte) :
    sanitise i (sanitise i v) = sanitise i v := by
  obtain rfl | hi := eq_or_ne i 2
  · simp [sanitise_config]
  · exact sanitise_of_ne (Fin.val_ne_of_ne hi) _

/-- Settles O13: CONFIG's number is its clamped fields' sum, and clamping is idempotent. -/
theorem sanitiseClampsConfig : Obligations.SanitiseClampsConfig := fun v =>
  ⟨sanitise_config_toNat v, sanitise_of_ne (by decide) v, sanitise_of_ne (by decide) v,
    sanitise_of_ne (by decide) v, fun i => sanitise_sanitise i v⟩

end Sys2Proof.Machine

/-! SUPPORT. The arrival half of the Transaction Handler (R91 to R97): what each inbound transaction
leaves in the buffer, and what RD leaves. -/

namespace Sys2Proof.Machine

/-! ### A buffered write -/

/-- R93: an arrival's bytes are what the buffer holds, where they fit. -/
theorem latchWrite_holdsWrite (idx : Byte) {bytes : List Byte}
    (h : bytes.length ≤ Config.payloadMax) (s : State) :
    holdsWrite (latchWrite idx bytes s).tx idx bytes :=
  ⟨rfl, rfl, min_eq_left h, validPayload_latchWrite idx h s⟩

/-- An arrival that is `latchWrite` of bytes that fit buffers them whole and leaves everything outside
the Transaction Buffer. -/
theorem buffers_of_eq_latchWrite {o : Host.Outcome State Fault Refusal} {idx : Byte}
    {bytes : List Byte} {s : State} (ho : o = .next (latchWrite idx bytes s))
    (h : bytes.length ≤ Config.payloadMax) :
    ∃ t, o = .next t ∧ holdsWrite t.tx idx bytes ∧ sameOutsideBuffer s t :=
  ⟨_, ho, latchWrite_holdsWrite idx h s, latchWrite_sameOutsideBuffer idx bytes s⟩

/-! ### Classification by length (R91) -/

/-- R94: the decoder's choice between RST and a WR does not matter on arrival. -/
theorem exec_resetOrWrite {idx p : Byte} {ps : List Byte} {w : Instr} {s : State}
    (hw : exec w s = .next (latchWrite idx (p :: ps) s)) :
    exec (if resetPattern idx p then .rst ps else w) s = .next (latchWrite idx (p :: ps) s) := by
  split
  next hpat =>
    obtain ⟨rfl, rfl⟩ := hpat
    rfl
  next => exact hw

/-- 2 to 5 bytes: the write is buffered, whether it decodes to WR or to RST. -/
theorem exec_inbound_write (idx p : Byte) {ps : List Byte} (h : ps.length ≤ 3) (s : State) :
    exec (decode .inbound (idx :: p :: ps)) s = .next (latchWrite idx (p :: ps) s) := by
  match ps, h with
  | [], _ => exact exec_resetOrWrite rfl
  | [_], _ => exact exec_resetOrWrite rfl
  | [_, _], _ => exact exec_resetOrWrite rfl
  | [_, _, _], _ => exact exec_resetOrWrite rfl

/-- A malformed length decodes to a DROP (R70). -/
theorem decodeInbound_of_not_lengthOk {bytes : List Byte} (h : ¬ lengthOk bytes) :
    decodeInbound bytes = .dropEmpty ∨ decodeInbound bytes = .dropOverlong bytes := by
  match bytes, h with
  | [], _ => exact .inl rfl
  | [_], h | [_, _], h | [_, _, _], h | [_, _, _, _], h | [_, _, _, _, _], h =>
    exact absurd (by simp [lengthOk]) h
  | _ :: _ :: _ :: _ :: _ :: _ :: _, _ => exact .inr rfl

/-- Settles O9: both DROPs answer the state they got. -/
theorem dropChangesNothing : Obligations.DropChangesNothing := fun _ _ => ⟨rfl, rfl⟩

/-- 0 bytes, or 6 and more: nothing happens. -/
theorem exec_inbound_of_not_lengthOk {bytes : List Byte} (h : ¬ lengthOk bytes) (s : State) :
    exec (decode .inbound bytes) s = .next s := by
  obtain ⟨hempty, hlong⟩ := dropChangesNothing s bytes
  obtain hd | hd := decodeInbound_of_not_lengthOk h <;> rw [decode, hd]
  · exact hempty
  · exact hlong

/-- Settles O5: one arrival lemma per class of lengths. -/
theorem arrivalIsClassifiedByLength : Obligations.ArrivalIsClassifiedByLength := by
  intro s bytes rest he
  rw [step_of_events he, decodeEvent]
  refine ⟨fun hbad => exec_inbound_of_not_lengthOk hbad _, ?_, ?_⟩
  · rintro idx rfl
    exact ⟨_, rfl, rfl, rfl, rfl, rfl, latchSelect_sameOutsideBuffer idx _⟩
  · rintro idx p ps rfl ⟨-, hlen⟩
    have hps : ps.length ≤ 3 := by simpa [Nat.lt_succ_iff] using hlen
    exact buffers_of_eq_latchWrite (exec_inbound_write idx p hps _) (Nat.succ_le_succ hps)

/-! ### Each operation's arrival -/

/-- Settles O6: the arrival is `latchSelect`. -/
theorem selLatchesIndex : Obligations.SelLatchesIndex := fun _ _ => rfl

/-- Settles O7: every WR is `latchWrite` of a payload that fits. -/
theorem wrBuffersPayload : Obligations.WrBuffersPayload := fun _ _ _ _ _ _ =>
  ⟨buffers_of_eq_latchWrite rfl (by simp), buffers_of_eq_latchWrite rfl (by simp),
    buffers_of_eq_latchWrite rfl (by simp), buffers_of_eq_latchWrite rfl (by simp)⟩

/-- Settles O8: RST is `latchWrite` of the index 0 and the payload 07 with its trailing bytes. -/
theorem rstIsBufferedLikeAWrite : Obligations.RstIsBufferedLikeAWrite := fun _ _ h =>
  buffers_of_eq_latchWrite rfl (Nat.succ_le_succ h)

/-- Settles O11: the response is one byte, the cached one. -/
theorem rdReturnsTheCache : Obligations.RdReturnsTheCache := fun _ => rfl

end Sys2Proof.Machine

/-! SUPPORT. The service half of the Transaction Handler (R99, R100): the tick that serves a select and
the tick that serves a reset. -/

namespace Sys2Proof.Machine

/-- TICK where the service phase leaves a CONFIG that selects `m` and `P`. -/
theorem exec_tick_of_config (now : Clock) {s : State} {m : Mode} {P : U32}
    (h : getConfig? (rfAfterService s) = some (m, P)) :
    exec (.tick now) s = .next (tickResult Config.phaseDiv m P now s) :=
  idleTick_of_config h

/-! ### A pending select -/

/-- R99: a served select shows in `respCache` alone, beside the same tick with nothing pending. -/
theorem tickResult_of_select (d : Nat) (m : Mode) (P : U32) (now : Clock) {s : State}
    (h : s.tx.txState = .awaitResponse) :
    tickResult d m P now s =
      { tickResult d m P now (toIdle s) with
        respCache := rfGet s.rf s.tx.latchedIndex.toNat } := by
  have hnw : s.tx.txState ≠ .applyWrite := by simp [h]
  have hidle : (toIdle s).tx.txState ≠ .applyWrite := by simp
  have hrf : rfAfterService s = rfAfterService (toIdle s) := by
    rw [rfAfterService_of_noWrite hnw, rfAfterService_of_noWrite hidle, toIdle_rf]
  have hwave : waveAfterTick d m P now s = waveAfterTick d m P now (toIdle s) := by
    rw [waveAfterTick, waveAfterTick, hrf, waveAfterService_of_noWrite hnw,
      waveAfterService_of_noWrite hidle, toIdle_wave]
  have hresp : respAfterTick s = rfGet s.rf s.tx.latchedIndex.toNat := by simp [respAfterTick, h]
  rw [tickResult, hrf, hwave, hresp]
  rfl

/-- Settles O21: both ticks are `tickResult`, for the same CONFIG. -/
theorem tickServesSelect : Obligations.TickServesSelect := by
  intro now s hlegal hsel
  have hnw : s.tx.txState ≠ .applyWrite := by simp [hsel]
  have hserved : rfAfterService s = s.rf := rfAfterService_of_noWrite hnw
  have hidle : rfAfterService (toIdle s) = s.rf := rfAfterService_of_noWrite (by simp)
  obtain ⟨m, P, hc⟩ := hlegal.exists_config
  exact ⟨_, _, exec_tick_of_config now (hserved ▸ hc),
    exec_tick_of_config now (s := toIdle s) (hidle ▸ hc), tickResult_of_select _ m P now hsel,
    tickResult_frame _ m P now hnw⟩

/-! ### A pending reset -/

/-- A pending write that spells the reset leaves the reset vector in the Register File (R100). -/
theorem rfAfterService_of_reset {s : State} (hw : s.tx.txState = .applyWrite)
    (hr : s.tx.latchedIndex = 0 ∧ s.tx.payload[0] = 0x07) :
    rfAfterService s = Config.resetVector := by
  rw [rfAfterService_of_write hw, applyPending, if_pos ((isReset_iff s.tx).mpr hr), rfReset_eq]

/-- The reset vector selects STEADY and `PT[6]`. -/
theorem getConfig?_resetVector :
    getConfig? Config.resetVector = some (.steady, 1500000) := by decide

/-- The Waveform State of a reset (R159): `reconfigure` in STEADY sets the period, `wtick` brings `cur`
to the intensity 0. -/
theorem waveAfterTick_of_reset (d : Nat) (P : U32) (now : Clock) {s : State}
    (hw : s.tx.txState = .applyWrite) (hrf : rfAfterService s = Config.resetVector) :
    waveAfterTick d .steady P now s = { s.wave with cur := 0, actualPeriod := P } := by
  have hon : getOnOff Config.resetVector = true := by decide
  have hzero : intensity16 (getIntensity Config.resetVector) = 0 := by decide
  rw [waveAfterTick, waveAfterService_of_write hw, hrf, hon]
  simp only [wtickWave, if_true, tickSteady, hzero, reconfigureWave]

/-- Settles O28: the tick is `tickResult` for the CONFIG of the reset vector. -/
theorem softResetEndState : Obligations.SoftResetEndState := by
  intro now s hw hidx hpay
  have hrf : rfAfterService s = Config.resetVector := rfAfterService_of_reset hw ⟨hidx, hpay⟩
  have hc : getConfig? (rfAfterService s) = some (.steady, 1500000) := by
    rw [hrf, getConfig?_resetVector]
  rw [exec_tick_of_config now hc, tickResult, waveAfterTick_of_reset _ _ now hw hrf, hrf,
    respAfterTick_of_write hw]
  rfl

end Sys2Proof.Machine

/-! SUPPORT. The Waveform Engine's part of a tick: the clock comparison (R109), `wtick` with nothing
to apply (R117 to R120), and `reconfigure` with the `wtick` that follows it (R112 to R115). -/

namespace Sys2Proof.Machine

/-! ### The clock comparison (R109) -/

theorem passed_iff_toInt_pos (now d : Clock) : passed now d = true ↔ 0 < (now - d).toInt :=
  decide_eq_true_iff

/-- A 32-bit difference is positive as signed exactly in the lower half of the circle, without 0. -/
theorem passed_iff_toNat (now d : Clock) :
    passed now d = true ↔ 1 ≤ (now - d).toNat ∧ (now - d).toNat ≤ 2 ^ 31 - 1 := by
  rw [passed_iff_toInt_pos, BitVec.toInt_eq_toNat_cond]
  have hlt := (now - d).isLt
  simp only [Config.clockBits_eq] at hlt ⊢
  split <;> omega

/-- Within the horizon the signed reading of a distance is the distance. -/
theorem passed_add_iff (d : Clock) {e : Int} (hlow : -(2 ^ 31) ≤ e) (hhigh : e ≤ 2 ^ 31 - 1) :
    passed (d + BitVec.ofInt 32 e) d = true ↔ 0 < e := by
  have hdist : d + BitVec.ofInt 32 e - d = BitVec.ofInt 32 e := add_sub_cancel_left d _
  rw [passed_iff_toInt_pos, hdist,
    BitVec.toInt_ofInt_eq_self (by decide) hlow (Int.lt_of_le_sub_one hhigh)]

/-- Settles O18: the comparison by sign, by residue, and by true distance; strict at distance 0. -/
theorem passedIsWraparoundSafe : Obligations.PassedIsWraparoundSafe :=
  ⟨passed_iff_toInt_pos, passed_iff_toNat, fun d => by simp [passed],
    fun d _ hlow hhigh => passed_add_iff d hlow hhigh⟩

/-! ### wtick, by mode and by deadline -/

section
variable (d : Nat) (m : Mode) (onOff : Bool) (I : Byte) (now : Clock) (w : Wave)

theorem wtickWave_off : wtickWave d m false I now w = { w with cur := 0 } := rfl

/-- In STEADY `wtick` writes `cur` alone: the intensity, or 0 when off. -/
theorem wtickWave_steady :
    wtickWave d .steady onOff I now w = { w with cur := if onOff then intensity16 I else 0 } := by
  cases onOff <;> rfl

variable {now w}

theorem tickBlink_of_passed (h : passed now w.next = true) :
    tickBlink d I now w =
      { w with
        cur := if w.cur = 0 then intensity16 I else 0
        next := deadline now (blinkInterval d w.actualPeriod) } :=
  if_pos h

theorem tickBlink_of_not_passed (h : passed now w.next = false) : tickBlink d I now w = w :=
  if_neg (Bool.eq_false_iff.mp h)

theorem tickPulse_of_passed (h : passed now w.next = true) :
    tickPulse d I now w =
      { pulseBounce I w with next := deadline now (pulseInterval d w.actualPeriod) } :=
  if_pos h

theorem tickPulse_of_not_passed (h : passed now w.next = false) : tickPulse d I now w = w :=
  if_neg (Bool.eq_false_iff.mp h)

end

/-! ### The PULSE event, by where the sum falls (R120) -/

section
variable {I : Byte} {w : Wave}

/-- At or above the upper bound, which is tested first. -/
theorem pulseBounce_upper (h : (I.toNat : Int) ≤ w.cur.toInt + w.step.toInt) :
    pulseBounce I w = { w with cur := intensity16 I, step := -w.step } :=
  if_pos h

/-- At or below 0. -/
theorem pulseBounce_lower (hI : w.cur.toInt + w.step.toInt < I.toNat)
    (h0 : w.cur.toInt + w.step.toInt ≤ 0) :
    pulseBounce I w = { w with cur := 0, step := -w.step } := by
  simp only [pulseBounce, if_neg (not_le.mpr hI), if_pos h0]

/-- Strictly between the bounds. -/
theorem pulseBounce_between (hI : w.cur.toInt + w.step.toInt < I.toNat)
    (h0 : 0 < w.cur.toInt + w.step.toInt) :
    pulseBounce I w = { w with cur := BitVec.ofInt 16 (w.cur.toInt + w.step.toInt) } := by
  simp only [pulseBounce, if_neg (not_le.mpr hI), if_neg (not_le.mpr h0)]

/-- A sum between the bounds fits `i16`, so it is stored exactly. -/
theorem ofInt_toInt_of_lt_intensity {n : Int} (hI : n < I.toNat) (h0 : 0 < n) :
    (BitVec.ofInt 16 n).toInt = n := by
  have := I.isLt
  exact BitVec.toInt_ofInt_eq_self (by decide) (by omega) (by omega)

@[simp] theorem pulseBounce_actualPeriod : (pulseBounce I w).actualPeriod = w.actualPeriod := by
  unfold pulseBounce
  dsimp only
  split
  · rfl
  · split <;> rfl

/-- A step of PULSE's magnitude is far from `-2^15`, so its negation is exact. -/
theorem neg_toInt_of_pulseStep
    (h : w.step = BitVec.ofNat 16 (I.toNat / 16) ∨ w.step = -BitVec.ofNat 16 (I.toNat / 16)) :
    (-w.step).toInt = -w.step.toInt := by
  obtain h | h := h <;> rw [h]
  · rw [neg_pulseStep_toInt, pulseStep_toInt]
  · rw [neg_neg, neg_pulseStep_toInt, pulseStep_toInt, neg_neg]

end

/-! ### The period, which `wtick` only reads (R116) -/

/-- A BLINK tick never writes the period. -/
theorem tickBlink_actualPeriod (d : Nat) (I : Byte) (now : Clock) (w : Wave) :
    (tickBlink d I now w).actualPeriod = w.actualPeriod := by
  cases hp : passed now w.next with
  | false => rw [tickBlink_of_not_passed d I hp]
  | true => rw [tickBlink_of_passed d I hp]

/-- A PULSE tick never writes the period. -/
theorem tickPulse_actualPeriod (d : Nat) (I : Byte) (now : Clock) (w : Wave) :
    (tickPulse d I now w).actualPeriod = w.actualPeriod := by
  cases hp : passed now w.next with
  | false => rw [tickPulse_of_not_passed d I hp]
  | true => rw [tickPulse_of_passed d I hp, pulseBounce_actualPeriod]

/-- `wtick` never writes the period (R116). -/
@[simp] theorem wtickWave_actualPeriod (d : Nat) (m : Mode) (onOff : Bool) (I : Byte) (now : Clock)
    (w : Wave) :
    (wtickWave d m onOff I now w).actualPeriod = w.actualPeriod := by
  cases onOff with
  | false => rfl
  | true =>
    cases m with
    | steady => rfl
    | blink => exact tickBlink_actualPeriod d I now w
    | pulse => exact tickPulse_actualPeriod d I now w

/-! ### The tick that serves no write -/

/-- The byte the Output Driver writes for a zero-extended intensity is that intensity. -/
theorem clamp_intensity16 (I : Byte) :
    BitVec.ofInt 8 (min (max (intensity16 I).toInt 0) 255) = I := by
  have hI := I.isLt
  rw [intensity16_toInt, max_eq_left (by omega), min_eq_left (by omega), BitVec.ofInt_natCast,
    BitVec.ofNat_toNat, BitVec.setWidth_eq]

/-- A tick with no write pending is `wtick` of the Waveform State, inside the tick's frame. -/
theorem exec_tick_of_noWrite (now : Clock) {s : State} (hlegal : configLegal s.rf)
    (hnw : s.tx.txState ≠ .applyWrite) :
    ∃ m t, modeOf (getMode s.rf) = some m ∧ exec (.tick now) s = .next t ∧ tickFrame s t ∧
      t.wave = wtickWave 4 m (getOnOff s.rf) (getIntensity s.rf) now s.wave := by
  have hrf : rfAfterService s = s.rf := rfAfterService_of_noWrite hnw
  obtain ⟨m, P, hc⟩ := hlegal.exists_config
  refine ⟨m, _, (getConfig?_eq_some_iff.mp hc).1, exec_tick_of_config now (hrf ▸ hc),
    tickResult_frame _ m P now hnw, ?_⟩
  rw [tickResult_wave, waveAfterTick, hrf, waveAfterService_of_noWrite hnw, Config.phaseDiv_eq]

/-- The same with `onOff = 1` in a known mode. -/
theorem exec_tick_of_noWrite_on (now : Clock) {s : State} {m : Mode} (hlegal : configLegal s.rf)
    (hnw : s.tx.txState ≠ .applyWrite) (hon : getOnOff s.rf = true)
    (hm : modeOf (getMode s.rf) = some m) :
    ∃ t, exec (.tick now) s = .next t ∧ tickFrame s t ∧
      t.wave = wtickWave 4 m true (getIntensity s.rf) now s.wave := by
  obtain ⟨m', t, hm', ht, hframe, hwave⟩ := exec_tick_of_noWrite now hlegal hnw
  obtain rfl : m' = m := Option.some.inj (hm'.symm.trans hm)
  exact ⟨t, ht, hframe, hon ▸ hwave⟩

theorem tickFrame.pwmDuty {s t : State} (h : tickFrame s t) :
    t.pwmDuty = BitVec.ofInt 8 (min (max t.wave.cur.toInt 0) 255) := by
  obtain ⟨-, -, -, -, -, hpwm⟩ := h
  exact hpwm

/-- Settles O22: the quick-kill, and the 0 it puts out. -/
theorem tickOffForcesZero : Obligations.TickOffForcesZero := by
  intro now s hlegal hnw hoff
  obtain ⟨m, t, -, ht, hframe, hwave⟩ := exec_tick_of_noWrite now hlegal hnw
  rw [hoff, wtickWave_off] at hwave
  refine ⟨t, ht, hwave, ?_, hframe⟩
  rw [hframe.pwmDuty, hwave]
  rfl

/-- Settles O23: `cur` becomes the intensity, which the Output Driver passes whole. -/
theorem tickSteadyTracksIntensity : Obligations.TickSteadyTracksIntensity := by
  intro now s hlegal hnw hon hm
  obtain ⟨t, ht, hframe, hwave⟩ := exec_tick_of_noWrite_on now hlegal hnw hon hm
  rw [wtickWave_steady, if_pos rfl] at hwave
  refine ⟨t, ht, hwave, ?_, hframe⟩
  rw [hframe.pwmDuty, hwave]
  exact clamp_intensity16 _

/-- Settles O24: `tickBlink` on either side of the deadline. -/
theorem tickBlinkToggles : Obligations.TickBlinkToggles := by
  intro now s hlegal hnw hon hm
  obtain ⟨t, ht, hframe, hwave⟩ := exec_tick_of_noWrite_on now hlegal hnw hon hm
  exact ⟨t, ht, hframe, fun hp => hwave.trans (tickBlink_of_passed 4 _ hp),
    fun hp => hwave.trans (tickBlink_of_not_passed 4 _ hp)⟩

/-- Settles O25: `tickPulse` on either side of the deadline, and past it the three places of the sum. -/
theorem tickPulseStepsAndBounces : Obligations.TickPulseStepsAndBounces := by
  rintro now s ⟨hlegal, -, -, -, -, hstep⟩ hnw hon hm
  obtain ⟨t, ht, hframe, hwave⟩ := exec_tick_of_noWrite_on now hlegal hnw hon hm
  refine ⟨t, ht, hframe, fun hp => hwave.trans (tickPulse_of_not_passed 4 _ hp), fun hp => ?_⟩
  have hneg : (-s.wave.step).toInt = -s.wave.step.toInt := neg_toInt_of_pulseStep (hstep hm)
  rw [hwave.trans (tickPulse_of_passed 4 _ hp)]
  refine ⟨pulseBounce_actualPeriod, rfl, fun hI => ?_, fun hI h0 => ?_, fun hI h0 => ?_⟩
  · rw [pulseBounce_upper hI]
    exact ⟨intensity16_toInt _, hneg⟩
  · rw [pulseBounce_lower hI h0]
    exact ⟨rfl, hneg⟩
  · rw [pulseBounce_between hI h0]
    exact ⟨ofInt_toInt_of_lt_intensity hI h0, rfl⟩

/-! ### The tick that serves a write -/

/-- A tick with a write or a reset pending is `reconfigure` and then `wtick`, both for the CONFIG the
write leaves. -/
theorem exec_tick_of_write (now : Clock) {s : State} (hlegal : configLegal s.rf)
    (hw : s.tx.txState = .applyWrite) :
    ∃ m P t, exec (.tick now) s = .next t ∧ modeOf (getMode t.rf) = some m ∧
      periodOf (getPeriod t.rf) = some P ∧
      t.wave = wtickWave 4 m (getOnOff t.rf) (getIntensity t.rf) now
        (reconfigureWave 4 m P (getIntensity t.rf) now s.wave) ∧
      t.pwmDuty = BitVec.ofInt 8 (min (max t.wave.cur.toInt 0) 255) := by
  obtain ⟨m, P, hc, ht⟩ := exec_tick_of_legal now (configLegal_rfAfterService hlegal)
  obtain ⟨hm, hP⟩ := getConfig?_eq_some_iff.mp hc
  refine ⟨m, P, _, ht, hm, hP, ?_, rfl⟩
  rw [tickResult_wave, waveAfterTick, waveAfterService_of_write hw, tickResult_rf, Config.phaseDiv_eq]

section
variable (d : Nat) (m : Mode) (P : U32) (onOff : Bool) (I : Byte) (now : Clock) (w : Wave)

@[simp] theorem reconfigureWave_actualPeriod :
    (reconfigureWave d m P I now w).actualPeriod = P := by
  cases m <;> rfl

variable {m}

/-- BLINK and PULSE restart from 0. -/
theorem reconfigureWave_cur (hm : m ≠ .steady) : (reconfigureWave d m P I now w).cur = 0 := by
  cases m with
  | steady => exact absurd rfl hm
  | blink | pulse => rfl

/-- The deadline `reconfigure` sets is not passed at its own time (R123). -/
theorem reconfigureWave_next_not_passed (hm : m ≠ .steady) (hP : P.toNat ≤ 4000000) :
    passed now (reconfigureWave 4 m P I now w).next = false := by
  cases m with
  | steady => exact absurd rfl hm
  | blink => exact passed_deadline_self now (by simp only [blinkInterval]; omega)
  | pulse => exact passed_deadline_self now (by simp only [pulseInterval, Config.pulseLevels_eq]; omega)

variable {now w}

/-- At the start of a BLINK or PULSE cycle, before its deadline, `wtick` changes nothing, on or off. -/
theorem wtickWave_of_fresh (hm : m ≠ .steady) (hcur : w.cur = 0) (hp : passed now w.next = false) :
    wtickWave d m onOff I now w = w := by
  cases onOff with
  | false => rw [wtickWave_off, ← hcur]
  | true =>
    cases m with
    | steady => exact absurd rfl hm
    | blink => exact tickBlink_of_not_passed d I hp
    | pulse => exact tickPulse_of_not_passed d I hp

variable (now w)

/-- The tick that serves a write in BLINK or PULSE ends with what `reconfigure` set. -/
theorem wtickWave_reconfigureWave (hm : m ≠ .steady) (hP : P.toNat ≤ 4000000) :
    wtickWave 4 m onOff I now (reconfigureWave 4 m P I now w) = reconfigureWave 4 m P I now w :=
  wtickWave_of_fresh 4 onOff I hm (reconfigureWave_cur 4 P I now w hm)
    (reconfigureWave_next_not_passed P I now w hm hP)

end

/-- Settles O27: `reconfigure` sets the period in every mode and, in BLINK and PULSE, the cycle that
the same tick's `wtick` leaves alone. -/
theorem everyAppliedWriteReconfigures : Obligations.EveryAppliedWriteReconfigures := by
  intro now s hlegal hw
  obtain ⟨m, P, t, ht, hm, hP, hwave, hpwm⟩ := exec_tick_of_write now hlegal hw
  have hperiod : t.wave.actualPeriod = P := by simp [hwave]
  have hrestart (hns : m ≠ .steady) :
      t.wave = reconfigureWave 4 m P (getIntensity t.rf) now s.wave :=
    hwave.trans (wtickWave_reconfigureWave P _ _ now _ hns (periodOf_le hP))
  refine ⟨t, ht, hperiod ▸ hP, fun h => ?_, fun h => ?_, fun h => ?_⟩ <;>
    obtain rfl := Option.some.inj (hm.symm.trans h)
  · rw [wtickWave_steady] at hwave
    rw [hwave]
    cases getOnOff t.rf with
    | false => exact ⟨rfl, rfl, rfl⟩
    | true => exact ⟨rfl, rfl, intensity16_toInt _⟩
  · rw [hpwm, hrestart (by decide)]
    exact ⟨rfl, rfl, rfl, rfl⟩
  · rw [hpwm, hrestart (by decide)]
    exact ⟨rfl, rfl, rfl, rfl⟩

end Sys2Proof.Machine

/-! SUPPORT. The Output Driver (R129): what the clamp gives on either side of `0..255`. -/

namespace Sys2Proof.Machine

variable {v : I16} (s : State)

/-- Below the channel's range the lower bound goes out. -/
theorem odWrite_pwmDuty_of_neg (hv : v.toInt < 0) : (odWrite v s).pwmDuty = 0 := by
  have hclamp : min (max v.toInt 0) 255 = 0 := by omega
  rw [odWrite_pwmDuty, hclamp]
  rfl

/-- Above the channel's range the upper bound goes out. -/
theorem odWrite_pwmDuty_of_gt (hv : 255 < v.toInt) : (odWrite v s).pwmDuty = 255 := by
  have hclamp : min (max v.toInt 0) 255 = 255 := by omega
  rw [odWrite_pwmDuty, hclamp]
  rfl

/-- The Output Driver writes `pwmDuty` only. -/
theorem odWrite_frame : odWrite v s = { s with pwmDuty := (odWrite v s).pwmDuty } := rfl

/-- Settles O31: the clamp below, above and within `0..255`, and the frame. -/
theorem outputDriverClamps : Obligations.OutputDriverClamps := fun _ s =>
  ⟨odWrite_pwmDuty_of_neg s, odWrite_pwmDuty_of_gt s, fun h0 h1 => odWrite_toNat h0 h1 s,
    odWrite_frame s⟩

end Sys2Proof.Machine

/-! SUPPORT. The invariant of the block (R25, R29, R35, R122, R125, R134): its part on the Waveform
State, every event's preservation of it, and from that R137: every run completes. -/

namespace Sys2Proof.Machine

/-! ### The Waveform State's part of the invariant -/

/-- The two values of `step` in PULSE with the intensity `I`: up or down by `I / 16` (R29). -/
def isPulseStep (I : Byte) (step : I16) : Prop :=
  step = BitVec.ofNat 16 (I.toNat / 16) ∨ step = -BitVec.ofNat 16 (I.toNat / 16)

/-- What the invariant asks of the Waveform State in the mode `m` with the intensity `I`. -/
structure WaveInv (m : Mode) (I : Byte) (w : Wave) : Prop where
  /-- `0 <= cur` (R125) -/
  nonneg : 0 ≤ w.cur.toInt
  /-- `cur <= I` (R125) -/
  le_intensity : w.cur.toInt ≤ I.toNat
  /-- BLINK has two levels (R122). -/
  blink : m = .blink → w.cur = 0 ∨ w.cur = intensity16 I
  /-- PULSE has one magnitude of step (R29). -/
  pulse : m = .pulse → isPulseStep I w.step

/-- The invariant, for a CONFIG that selects `m` and `P`. -/
theorem inv_iff_of_config {s : State} {m : Mode} {P : U32} (hc : getConfig? s.rf = some (m, P)) :
    Inv s ↔ s.wave.actualPeriod = P ∧ pendingNonempty s ∧
      WaveInv m (getIntensity s.rf) s.wave := by
  have hlegal : configLegal s.rf := (getConfig?_isSome_iff s.rf).mp (by simp [hc])
  obtain ⟨hm, hP⟩ := getConfig?_eq_some_iff.mp hc
  unfold Inv periodResolved blinkTwoLevels pulseStepMagnitude
  rw [hm, hP, Option.some_inj, Option.some_inj, Option.some_inj]
  constructor
  · rintro ⟨-, hper, hpend, ⟨hnonneg, hle⟩, hblink, hpulse⟩
    exact ⟨hper.symm, hpend, hnonneg, hle, hblink, hpulse⟩
  · rintro ⟨hper, hpend, hnonneg, hle, hblink, hpulse⟩
    exact ⟨hlegal, hper.symm, hpend, ⟨hnonneg, hle⟩, hblink, hpulse⟩

section
variable {m : Mode} {I : Byte} {w : Wave} (d : Nat) (now : Clock)

/-- With `cur` at either end of its range only the step is left to ask. -/
theorem WaveInv.of_cur_eq (hcur : w.cur = 0 ∨ w.cur = intensity16 I)
    (hstep : m = .pulse → isPulseStep I w.step) : WaveInv m I w := by
  refine ⟨?_, ?_, fun _ => hcur, hstep⟩ <;> obtain h | h := hcur <;> simp [h]

/-! ### reconfigure and wtick -/

/-- BLINK and PULSE restart inside the invariant, whatever the Waveform State was (R113, R114). -/
theorem waveInv_reconfigureWave (P : U32) (hm : m ≠ .steady) :
    WaveInv m I (reconfigureWave d m P I now w) := by
  refine .of_cur_eq (.inl (reconfigureWave_cur d P I now w hm)) ?_
  rintro rfl
  exact .inl rfl

/-- A BLINK tick toggles between the two levels or changes nothing. -/
theorem waveInv_tickBlink (h : WaveInv .blink I w) : WaveInv .blink I (tickBlink d I now w) := by
  cases hp : passed now w.next with
  | false => rwa [tickBlink_of_not_passed d I hp]
  | true =>
    rw [tickBlink_of_passed d I hp]
    refine .of_cur_eq ?_ nofun
    dsimp only
    split
    · exact .inr rfl
    · exact .inl rfl

/-- A flip keeps the magnitude. -/
theorem isPulseStep.neg {step : I16} (h : isPulseStep I step) : isPulseStep I (-step) := by
  obtain rfl | rfl := h
  · exact .inr rfl
  · exact .inl (neg_neg _)

/-- A PULSE event keeps the step or flips it. -/
theorem isPulseStep_pulseBounce (h : isPulseStep I w.step) :
    isPulseStep I (pulseBounce I w).step := by
  unfold pulseBounce
  dsimp only
  split
  · exact h.neg
  · split
    · exact h.neg
    · exact h

/-- A PULSE tick moves `cur` inside its range or changes nothing. -/
theorem waveInv_tickPulse (h : WaveInv .pulse I w) : WaveInv .pulse I (tickPulse d I now w) := by
  cases hp : passed now w.next with
  | false => rwa [tickPulse_of_not_passed d I hp]
  | true =>
    obtain ⟨hnonneg, hle⟩ := pulseBounce_cur_range (I := I) w
    rw [tickPulse_of_passed d I hp]
    exact ⟨hnonneg, hle, nofun, fun _ => isPulseStep_pulseBounce (h.pulse rfl)⟩

/-- `wtick` ends inside the invariant. In STEADY it needs nothing of the state before, so it also mends
a `cur` that a write of a lower intensity has left too high. -/
theorem waveInv_wtickWave (onOff : Bool) (h : m ≠ .steady → WaveInv m I w) :
    WaveInv m I (wtickWave d m onOff I now w) := by
  cases onOff with
  | false => exact .of_cur_eq (.inl rfl) fun hm => (h (by simp [hm])).pulse hm
  | true =>
    cases m with
    | steady => exact .of_cur_eq (.inr rfl) nofun
    | blink => exact waveInv_tickBlink d now (h (by simp))
    | pulse => exact waveInv_tickPulse d now (h (by simp))

end

/-! ### Every event keeps the invariant -/

section
variable {s : State}

theorem Inv.legal (h : Inv s) : configLegal s.rf := h.left

/-- The invariant reads the Register File, the Waveform State and whether an empty write is pending. -/
theorem Inv.congr (h : Inv s) {t : State} (hrf : t.rf = s.rf) (hwave : t.wave = s.wave)
    (hpend : pendingNonempty t) : Inv t := by
  obtain ⟨m, P, hc⟩ := h.legal.exists_config
  obtain ⟨hper, -, hw⟩ := (inv_iff_of_config hc).mp h
  rw [inv_iff_of_config (hrf ▸ hc), hrf, hwave]
  exact ⟨hper, hpend, hw⟩

/-- A power-on ends inside the invariant, from any state and with any free values (R155). -/
theorem inv_bootState (s : State) : Inv (bootState s) := by
  rw [inv_iff_of_config (s := bootState s) (by rw [bootState_rf, getConfig?_resetVector])]
  exact ⟨bootState_actualPeriod s, nofun, .of_cur_eq (.inl rfl) nofun⟩

/-- After the service phase the period is the one CONFIG selects, and in BLINK and PULSE the Waveform
State meets the invariant: `reconfigure` sets both up for a write, and nothing else changes either. -/
theorem waveAfterService_inv (d : Nat) (now : Clock) {m : Mode} {P : U32} (h : Inv s)
    (hc : getConfig? (rfAfterService s) = some (m, P)) :
    (waveAfterService d m P now s).actualPeriod = P ∧
      (m ≠ .steady → WaveInv m (getIntensity (rfAfterService s)) (waveAfterService d m P now s)) := by
  by_cases hw : s.tx.txState = .applyWrite
  · rw [waveAfterService_of_write hw]
    exact ⟨reconfigureWave_actualPeriod .., waveInv_reconfigureWave d now P⟩
  · rw [rfAfterService_of_noWrite hw] at hc ⊢
    rw [waveAfterService_of_noWrite hw]
    obtain ⟨hper, -, hwave⟩ := (inv_iff_of_config hc).mp h
    exact ⟨hper, fun _ => hwave⟩

/-- A tick keeps the invariant. -/
theorem inv_tickResult (d : Nat) (now : Clock) {m : Mode} {P : U32} (h : Inv s)
    (hc : getConfig? (rfAfterService s) = some (m, P)) : Inv (tickResult d m P now s) := by
  obtain ⟨hper, hwave⟩ := waveAfterService_inv d now h hc
  rw [inv_iff_of_config (s := tickResult d m P now s) hc]
  exact ⟨(wtickWave_actualPeriod ..).trans hper, nofun, waveInv_wtickWave d now _ hwave⟩

/-- Every operation keeps the invariant. -/
theorem exec_keeps_inv {i : Instr} {t : State} (h : Inv s) (ht : exec i s = .next t) : Inv t := by
  obtain ⟨rfl, -⟩ | ⟨idx, -, rfl⟩ | ⟨idx, bytes, hlen, rfl⟩ | ⟨-, rfl⟩ | ⟨now, m, P, -, hc, rfl⟩ |
    ⟨-, rfl⟩ := exec_cases ht
  · exact h
  · exact h.congr rfl rfl nofun
  · exact h.congr rfl rfl fun _ => lt_min hlen (by decide)
  · exact h.congr rfl rfl nofun
  · exact inv_tickResult _ now h hc
  · exact inv_bootState s

/-- The schedule is no part of the invariant. -/
theorem Inv.withEvents (h : Inv s) (es : List Event) : Inv { s with events := es } := h

/-- Every step keeps the invariant. -/
theorem step_keeps_inv {t : State} (h : Inv s) (ht : step s = .next t) : Inv t := by
  cases he : s.events with
  | nil =>
    obtain rfl : s = t := by simpa [step, he] using ht
    exact h
  | cons e rest =>
    rw [step_of_events he] at ht
    exact exec_keeps_inv (h.withEvents rest) ht

/-! ### Every event completes -/

/-- Where CONFIG is legal every operation completes: TICK alone could be refused, and the service phase
leaves CONFIG legal (R84). -/
theorem exec_completes (i : Instr) (h : configLegal s.rf) : ∃ t, exec i s = .next t := by
  cases i with
  | tick now =>
    obtain ⟨m, P, -, ht⟩ := exec_tick_of_legal now (configLegal_rfAfterService h)
    exact ⟨_, ht⟩
  | sel | wr1 | wr2 | wr3 | wr4 | rst | dropEmpty | dropOverlong | rd | por => exact ⟨_, rfl⟩

/-- Where CONFIG is legal every step completes. -/
theorem step_completes (h : configLegal s.rf) : ∃ t, step s = .next t := by
  cases he : s.events with
  | nil => exact ⟨s, by simp [step, he]⟩
  | cons e rest =>
    rw [step_of_events he]
    exact exec_completes (s := { s with events := rest }) (decodeEvent e) h

end

/-- Settles O37, by induction on the number of steps: each completes and keeps the invariant. -/
theorem nothingIsFatal : Obligations.NothingIsFatal := by
  intro k
  induction k with
  | zero => exact fun s h => ⟨s, rfl, h⟩
  | succ k ih =>
    intro s h
    obtain ⟨t, ht⟩ := step_completes h.legal
    rw [runSteps_succ_of_next ht]
    exact ih t (step_keeps_inv h ht)

end Sys2Proof.Machine

/-! SUPPORT. Reset as the controller sees it (R156, R158, R159): the reset vector's fields, the run
of a reset write and the run of a query. -/

namespace Sys2Proof.Machine

/-! ### Runs -/

/-- A run goes on from where its first steps led. -/
theorem runSteps_add_of_next {j : Nat} (k : Nat) {s t : State} (h : runSteps j s = .next t) :
    runSteps (j + k) s = runSteps k t := by
  induction j generalizing s with
  | zero =>
    obtain rfl : s = t := Host.Outcome.next.inj h
    rw [Nat.zero_add]
  | succ j ih =>
    obtain ⟨u, hu, hrun⟩ := (andThen_eq_next t (runSteps j)).mp h
    rw [Nat.add_right_comm, runSteps_succ_of_next hu, ih hrun]

section
variable {k : Nat} {s : State} {rest : List Event}

/-- A run starts with the operation its oldest event stands for. -/
theorem runSteps_succ_of_exec {e : Event} {t : State} (he : s.events = e :: rest)
    (h : exec (decodeEvent e) { s with events := rest } = .next t) :
    runSteps (k + 1) s = runSteps k t :=
  runSteps_succ_of_next ((step_of_events he).trans h)

theorem runSteps_of_select {idx : Byte} (he : s.events = .rx [idx] :: rest) :
    runSteps (k + 1) s = runSteps k (latchSelect idx { s with events := rest }) :=
  runSteps_succ_of_exec he rfl

theorem runSteps_of_write {idx p : Byte} {ps : List Byte}
    (he : s.events = .rx (idx :: p :: ps) :: rest) (h : ps.length ≤ 3) :
    runSteps (k + 1) s = runSteps k (latchWrite idx (p :: ps) { s with events := rest }) :=
  runSteps_succ_of_exec he (exec_inbound_write idx p h _)

theorem runSteps_of_read (he : s.events = .rq :: rest) :
    runSteps (k + 1) s = runSteps k (answerRead { s with events := rest }) :=
  runSteps_succ_of_exec he rfl

theorem runSteps_of_tick {now : Clock} {m : Mode} {P : U32} (he : s.events = .tick now :: rest)
    (hc : getConfig? (rfAfterService s) = some (m, P)) :
    runSteps (k + 1) s =
      runSteps k (tickResult Config.phaseDiv m P now { s with events := rest }) :=
  runSteps_succ_of_exec he (exec_tick_of_config now hc)

end

/-! ### The reset vector -/

/-- The reset vector by field (R156): intensity 0, on, STEADY, `periodIndex` 6, whose period is
`PT[6]`. -/
theorem resetVector_fields :
    getReset Config.resetVector = 0 ∧ getOnOff Config.resetVector = true ∧
    getIntensity Config.resetVector = 0 ∧ getPeriod Config.resetVector = 6 ∧
    modeOf (getMode Config.resetVector) = some .steady ∧
    periodOf (getPeriod Config.resetVector) = some 1500000 := by decide

theorem configLegal_resetVector : configLegal Config.resetVector :=
  rfReset_eq ▸ configLegal_rfReset

/-- What a read of the reset vector returns: byte `min(i, 3)`. -/
theorem rfGet_resetVector (i : Byte) :
    rfGet Config.resetVector i.toNat =
      if i = 0 then 0x08 else if i = 1 then 0x00 else if i = 2 then 0x06 else 0x00 := by
  revert i; decide

/-- Settles O33: the reset vector's fields, and a STEADY tick that puts out the intensity 0. -/
theorem resetStateIsTheBootState : Obligations.ResetStateIsTheBootState := by
  obtain ⟨hreset, hon, hintensity, hindex, hmode, hperiod⟩ := resetVector_fields
  refine ⟨rfl, hreset, hon, hintensity, hindex, hmode, hperiod, rfl, rfl, Config.resetPeriod_eq,
    fun now => ?_⟩
  obtain ⟨t, ht, -, hpwm, -⟩ := tickSteadyTracksIntensity now State.reset
    configLegal_resetVector (by decide) hon hmode
  exact ⟨t, ht, hpwm.trans hintensity⟩

/-! ### A reset write and a query, each as a run -/

section
variable {s : State} {now : Clock} {rest : List Event}

/-- R159: the write of the reset pattern and a tick, from any state. -/
theorem runSteps_reset (he : s.events = .rx [0x00, 0x07] :: .tick now :: rest) :
    ∃ t, runSteps 2 s = .next t ∧ t.events = rest ∧ t.rf = Config.resetVector ∧
      t.wave = { s.wave with cur := 0, actualPeriod := 1500000 } ∧ t.responses = s.responses := by
  have hrf : rfAfterService (latchWrite 0x00 [0x07] { s with events := .tick now :: rest }) =
      Config.resetVector := rfAfterService_of_reset rfl ⟨rfl, rfl⟩
  exact ⟨_, .trans (runSteps_of_write he (Nat.zero_le 3))
    (runSteps_of_tick rfl (hrf ▸ getConfig?_resetVector)), rfl, hrf,
    waveAfterTick_of_reset _ _ now rfl hrf, rfl⟩

/-- A query: a select, the tick that serves it and the read (R159, D20). It answers the byte the
Register File holds and leaves the file, and the tick is `wtick` alone. -/
theorem runSteps_query {i : Byte} (hlegal : configLegal s.rf)
    (he : s.events = .rx [i] :: .tick now :: .rq :: rest) :
    ∃ m t, modeOf (getMode s.rf) = some m ∧ runSteps 3 s = .next t ∧ t.events = rest ∧
      t.rf = s.rf ∧
      t.wave = wtickWave 4 m (getOnOff s.rf) (getIntensity s.rf) now s.wave ∧
      t.pwmDuty = BitVec.ofInt 8 (min (max t.wave.cur.toInt 0) 255) ∧
      t.responses = s.responses ++ [[rfGet s.rf i.toNat]] := by
  obtain ⟨m, P, hc⟩ := hlegal.exists_config
  exact ⟨m, _, (getConfig?_eq_some_iff.mp hc).1,
    .trans (runSteps_of_select he) (.trans (runSteps_of_tick rfl hc) (runSteps_of_read rfl)),
    rfl, rfl, rfl, rfl, rfl⟩

end

/-- Settles O45: the reset's run, then the query's, whose STEADY tick keeps `cur` at the
intensity 0. -/
theorem resetThenQuery : Obligations.ResetThenQuery := by
  intro s i t1 t2 rest he
  obtain ⟨-, hon, hintensity, -, hmode, -⟩ := resetVector_fields
  obtain ⟨u, hreset, hevents, hrf, hwave, hresponses⟩ := runSteps_reset he
  obtain ⟨m, t, hm, hquery, hrest, hfile, hwt, hpwm, hanswer⟩ :=
    runSteps_query (hrf ▸ configLegal_resetVector) hevents
  rw [hrf] at hm hfile hwt hanswer
  obtain rfl : m = .steady := Option.some.inj (hm.symm.trans hmode)
  have hend : t.wave = { s.wave with cur := 0, actualPeriod := 1500000 } := by
    rw [hwt, hwave, wtickWave_steady, hon, hintensity]
    rfl
  rw [hend] at hpwm
  exact ⟨t, (runSteps_add_of_next 3 hreset).trans hquery, hrest, hfile,
    congrArg Wave.actualPeriod hend, congrArg Wave.cur hend, hpwm,
    by rw [hanswer, hresponses, rfGet_resetVector]⟩

end Sys2Proof.Machine

/-! SUPPORT. The decoder and the encoder are each other's inverse (R60 to R63, R69, R70). -/

namespace Sys2Proof

/-! ### What each check of a term asks -/

section
variable (idx p0 p1 p2 p3 : Byte) (bytes : List Byte)

theorem wellFormed_wr1_iff : (Instr.wr1 idx p0).WellFormed ↔ ¬ resetPattern idx p0 := by
  simp [Instr.WellFormed, Instr.illFormed?]

theorem wellFormed_wr2_iff : (Instr.wr2 idx p0 p1).WellFormed ↔ ¬ resetPattern idx p0 := by
  simp [Instr.WellFormed, Instr.illFormed?]

theorem wellFormed_wr3_iff :
    (Instr.wr3 idx p0 p1 p2).WellFormed ↔ ¬ resetPattern idx p0 := by
  simp [Instr.WellFormed, Instr.illFormed?]

theorem wellFormed_wr4_iff :
    (Instr.wr4 idx p0 p1 p2 p3).WellFormed ↔ ¬ resetPattern idx p0 := by
  simp [Instr.WellFormed, Instr.illFormed?]

theorem wellFormed_rst_iff : (Instr.rst bytes).WellFormed ↔ bytes.length ≤ 3 := by
  simp [Instr.WellFormed, Instr.illFormed?, Nat.lt_succ_iff]

theorem wellFormed_dropOverlong_iff :
    (Instr.dropOverlong bytes).WellFormed ↔ 6 ≤ bytes.length := by
  simp [Instr.WellFormed, Instr.illFormed?, Nat.succ_le_iff]

end

/-! ### The two long formats, decoded -/

/-- The reset pattern with up to 3 bytes after it is RST (R69). -/
theorem decodeInbound_resetPattern {extra : List Byte} (h : extra.length ≤ 3) :
    decodeInbound (0x00 :: 0x07 :: extra) = .rst extra := by
  match extra, h with
  | [], _ | [_], _ | [_, _], _ | [_, _, _], _ => rfl

/-- 6 bytes or more are an overlong DROP, whatever they spell (R70). -/
theorem decodeInbound_overlong {bytes : List Byte} (h : 6 ≤ bytes.length) :
    decodeInbound bytes = .dropOverlong bytes := by
  match bytes, h with
  | _ :: _ :: _ :: _ :: _ :: _ :: _, _ => rfl

/-! ### The two round trips -/

/-- Settles O1, operation by operation: well-formedness is what makes the decoder take WR, RST and the
overlong DROP for what they are. -/
theorem decodeOfEncodeIsIdentity : Obligations.DecodeOfEncodeIsIdentity := by
  intro i hwf
  cases i with
  | wr1 idx p0 => exact if_neg ((wellFormed_wr1_iff idx p0).mp hwf)
  | wr2 idx p0 p1 => exact if_neg ((wellFormed_wr2_iff idx p0 p1).mp hwf)
  | wr3 idx p0 p1 p2 => exact if_neg ((wellFormed_wr3_iff idx p0 p1 p2).mp hwf)
  | wr4 idx p0 p1 p2 p3 => exact if_neg ((wellFormed_wr4_iff idx p0 p1 p2 p3).mp hwf)
  | rst extra => exact decodeInbound_resetPattern ((wellFormed_rst_iff extra).mp hwf)
  | dropOverlong bytes => exact decodeInbound_overlong ((wellFormed_dropOverlong_iff bytes).mp hwf)
  | sel | dropEmpty | rd | tick | por => rfl

/-- Bytes that open with an index and a payload byte, decoded to RST or to the WR of their length, give
a well-formed term that encodes to them. -/
theorem wellFormed_encode_resetOrWrite {idx p0 : Byte} {extra : List Byte} {w : Instr}
    (hlen : extra.length ≤ 3) (hwf : w.WellFormed ↔ ¬ resetPattern idx p0)
    (hw : encode w = .rx (idx :: p0 :: extra)) :
    (if resetPattern idx p0 then Instr.rst extra else w).WellFormed ∧
      encode (if resetPattern idx p0 then Instr.rst extra else w) = .rx (idx :: p0 :: extra) := by
  split
  next hpat =>
    obtain ⟨rfl, rfl⟩ := hpat
    exact ⟨(wellFormed_rst_iff extra).mpr hlen, rfl⟩
  next hpat => exact ⟨hwf.mpr hpat, hw⟩

/-- Every inbound transaction decodes to a well-formed term that encodes to it. -/
theorem wellFormed_encode_decodeInbound (bytes : List Byte) :
    (decodeInbound bytes).WellFormed ∧ encode (decodeInbound bytes) = .rx bytes := by
  match bytes with
  | [] | [_] => exact ⟨rfl, rfl⟩
  | [_, _] => exact wellFormed_encode_resetOrWrite (by simp) (wellFormed_wr1_iff ..) rfl
  | [_, _, _] => exact wellFormed_encode_resetOrWrite (by simp) (wellFormed_wr2_iff ..) rfl
  | [_, _, _, _] => exact wellFormed_encode_resetOrWrite (by simp) (wellFormed_wr3_iff ..) rfl
  | [_, _, _, _, _] => exact wellFormed_encode_resetOrWrite (by simp) (wellFormed_wr4_iff ..) rfl
  | _ :: _ :: _ :: _ :: _ :: _ :: _ =>
    exact ⟨(wellFormed_dropOverlong_iff _).mpr (Nat.le_add_left 6 _), rfl⟩

/-- Settles O2: an inbound transaction by its length, every other event by what it stands for. -/
theorem encodeOfDecodeIsIdentity : Obligations.EncodeOfDecodeIsIdentity := by
  intro e
  cases e with
  | rx bytes => exact wellFormed_encode_decodeInbound bytes
  | rq | tick | por => exact ⟨rfl, rfl⟩

/-- Settles O3: the length picks the format, and the first two bytes pick RST or WR. -/
theorem specWordsDecode : Obligations.SpecWordsDecode := by
  unfold Obligations.SpecWordsDecode
  decide

end Sys2Proof

/-! SUPPORT. The step over the schedule (R8), and the Transaction Handler through it: the table of R104,
which tick may change the file, the period and the cache (R39), and the schedules that lose nothing
(R162). -/

namespace Sys2Proof.Machine

/-! ### The schedule -/

/-- With no event left a step changes nothing (R8). -/
theorem step_of_no_events {s : State} (h : s.events = []) : step s = .next s := by
  simp [step, h]

/-- Settles O4: the oldest event, no event, and an event placed for fetching. -/
theorem stepRunsTheDecodedEvent : Obligations.StepRunsTheDecodedEvent := by
  refine ⟨fun s e rest => step_of_events, fun s => step_of_no_events, fun s nbits w i hw => ?_⟩
  have hdec : decode .inbound (tableBytes nbits w) = i := by
    unfold decodeTableWord at hw
    split at hw
    · exact Option.some.inj hw
    · cases hw
  exact hdec ▸ rfl

section
variable {s t : State} {e : Event} {rest : List Event}

/-- No operation touches the schedule. -/
theorem exec_events {i : Instr} (h : exec i s = .next t) : t.events = s.events := by
  obtain ⟨rfl, -⟩ | ⟨idx, -, rfl⟩ | ⟨idx, bytes, -, rfl⟩ | ⟨-, rfl⟩ | ⟨now, m, P, -, -, rfl⟩ |
    ⟨-, rfl⟩ := exec_cases h <;> rfl

/-- A step takes the oldest event off the schedule. -/
theorem step_events (he : s.events = e :: rest) (h : step s = .next t) : t.events = rest :=
  exec_events ((step_of_events he).symm.trans h)

/-! ### The table of R104 -/

/-- An inbound transaction moves the handler as its length says. -/
theorem exec_inbound_txState (bytes : List Byte) (s : State) :
    ∃ t, exec (decode .inbound bytes) s = .next t ∧
      t.tx.txState = txTable s.tx.txState (.rx bytes) := by
  by_cases h : lengthOk bytes
  · match bytes, h with
    | [idx], _ => exact ⟨_, rfl, rfl⟩
    | idx :: p :: ps, ⟨_, hlen⟩ =>
      have hps : ps.length ≤ 3 := by simpa [Nat.lt_succ_iff] using hlen
      refine ⟨_, exec_inbound_write idx p hps s, ?_⟩
      rw [txTable, if_neg (by simp), if_pos ⟨by simp, hlen⟩, latchWrite_txState]
  · refine ⟨s, exec_inbound_of_not_lengthOk h s, ?_⟩
    unfold lengthOk at h
    rw [txTable, if_neg (by omega), if_neg (by omega)]

/-- An event that completes moves the handler as the table says. -/
theorem step_txState (he : s.events = e :: rest) (h : step s = .next t) :
    t.tx.txState = txTable s.tx.txState e := by
  rw [step_of_events he] at h
  cases e with
  | rx bytes =>
    obtain ⟨u, hu, htable⟩ := exec_inbound_txState bytes { s with events := rest }
    obtain rfl : u = t := Host.Outcome.next.inj (hu.symm.trans h)
    exact htable
  | rq =>
    obtain rfl : answerRead { s with events := rest } = t := Host.Outcome.next.inj h
    rfl
  | tick now =>
    obtain ⟨m, P, -, rfl⟩ := idleTick_eq_next h
    rfl
  | por =>
    obtain rfl : bootState { s with events := rest } = t := Host.Outcome.next.inj h
    rfl

end

/-- Settles O38: every event completes from a legal CONFIG, and `step_txState` is the table. -/
theorem transitionTable : Obligations.TransitionTable := by
  intro s e rest hinv he
  obtain ⟨t, ht⟩ := step_completes hinv.legal
  exact ⟨t, ht, step_txState he ht⟩

/-! ### Who changes the Register File, the period and the cache -/

section
variable (now : Clock) {s : State} {m : Mode} {P : U32}

/-- With no write pending a tick leaves the period, which `wtick` only reads. -/
theorem waveAfterTick_actualPeriod_of_noWrite (d : Nat) (h : s.tx.txState ≠ .applyWrite) :
    (waveAfterTick d m P now s).actualPeriod = s.wave.actualPeriod := by
  rw [waveAfterTick, wtickWave_actualPeriod, waveAfterService_of_noWrite h]

theorem respAfterTick_of_noSelect (h : s.tx.txState ≠ .awaitResponse) :
    respAfterTick s = s.respCache := by
  unfold respAfterTick
  split
  · contradiction
  · rfl
  · rfl

end

/-- Settles O40: no arrival and no read changes any of the three (R39), and a tick does as the work it
serves. -/
theorem onlyServedWorkMutates : Obligations.OnlyServedWorkMutates := by
  intro s t e rest he hpor ht
  obtain ⟨hrx, hrq, -⟩ := contextsWriteOnlyWhatTheyOwn s t rest
  cases e with
  | rx bytes =>
    obtain ⟨hrf, hwave, hresp, -⟩ := hrx bytes he ht
    simp [hrf, hwave, hresp]
  | rq =>
    obtain ⟨hrf, hwave, hresp, -⟩ := hrq he ht
    simp [hrf, hwave, hresp]
  | por => exact absurd rfl hpor
  | tick now =>
    rw [step_of_events he] at ht
    obtain ⟨m, P, -, rfl⟩ := idleTick_eq_next ht
    refine ⟨fun hne => ⟨by_contra fun hnw => ?_, now, rfl⟩,
      fun hne => ⟨by_contra fun hns => ?_, now, rfl⟩⟩
    · exact hne.elim (absurd (rfAfterService_of_noWrite hnw))
        (absurd (waveAfterTick_actualPeriod_of_noWrite now _ hnw))
    · exact hne (respAfterTick_of_noSelect hns)

/-! ### Schedules that lose nothing (R162) -/

/-- What every step keeps holds at the end of every run. -/
theorem runSteps_keeps {p : State → Prop} (hstep : ∀ s t, p s → step s = .next t → p t) {k : Nat}
    {s t : State} (hs : p s) (h : runSteps k s = .next t) : p t := by
  induction k generalizing s with
  | zero =>
    obtain rfl : s = t := Host.Outcome.next.inj h
    exact hs
  | succ k ih =>
    obtain ⟨u, hu, hrun⟩ := (andThen_eq_next t (runSteps k)).mp h
    exact ih (hstep s u hs hu) hrun

/-- The schedule meets R162 from here on, and unless a TICK is still owed to the buffer nothing is
pending. -/
def HazardFreeFrom (s : State) : Prop :=
  ∃ busy, hazardFree busy s.events = true ∧ (busy = false → s.tx.txState = .idle)

theorem hazardFree_cons_of_usesBuffer {e : Event} (h : usesBuffer e = true) (busy : Bool)
    (rest : List Event) : hazardFree busy (e :: rest) = (!busy && hazardFree true rest) := by
  cases e with
  | rx | rq => simp [hazardFree, h]
  | tick | por => cases h

/-- An event that neither uses the buffer nor serves it. -/
theorem hazardFree_cons_of_not_usesBuffer {e : Event} (h : usesBuffer e = false)
    (htick : ∀ now, e ≠ .tick now) (busy : Bool) (rest : List Event) :
    hazardFree busy (e :: rest) = hazardFree busy rest := by
  cases e with
  | rx | por => simp [hazardFree, h]
  | rq => cases h
  | tick now => exact absurd rfl (htick now)

/-- An event that does not use the buffer leaves an idle handler idle. -/
theorem txTable_idle_of_not_usesBuffer {e : Event} (h : usesBuffer e = false) :
    txTable .idle e = .idle := by
  cases e with
  | rx bytes =>
    have hbad : ¬ lengthOk bytes := by simpa [usesBuffer] using h
    unfold lengthOk at hbad
    rw [txTable, if_neg (by omega), if_neg (by omega)]
  | rq | tick | por => rfl

theorem step_keeps_hazardFreeFrom (s t : State) (h : HazardFreeFrom s) (ht : step s = .next t) :
    HazardFreeFrom t := by
  cases he : s.events with
  | nil =>
    rw [step_of_no_events he] at ht
    obtain rfl : s = t := Host.Outcome.next.inj ht
    exact h
  | cons e rest =>
    obtain ⟨busy, hfree, hidle⟩ := h
    rw [he] at hfree
    unfold HazardFreeFrom
    rw [step_events he ht, step_txState he ht]
    by_cases htick : ∃ now, e = .tick now
    · obtain ⟨now, rfl⟩ := htick
      exact ⟨false, hfree, fun _ => rfl⟩
    · cases hu : usesBuffer e with
      | true =>
        rw [hazardFree_cons_of_usesBuffer hu, Bool.and_eq_true] at hfree
        exact ⟨true, hfree.right, nofun⟩
      | false =>
        rw [hazardFree_cons_of_not_usesBuffer hu (not_exists.mp htick)] at hfree
        exact ⟨busy, hfree, fun hb => hidle hb ▸ txTable_idle_of_not_usesBuffer hu⟩

/-- Settles O41: `HazardFreeFrom` holds all along the run, and where it meets an event that uses the
buffer no TICK is owed. -/
theorem hazardFreeSchedulesLoseNothing : Obligations.HazardFreeSchedulesLoseNothing := by
  intro k s t e rest hs hfree hrun he hu
  obtain ⟨busy, hfree, hidle⟩ : HazardFreeFrom t :=
    runSteps_keeps step_keeps_hazardFreeFrom ⟨false, hfree, fun _ => hs⟩ hrun
  rw [he, hazardFree_cons_of_usesBuffer hu, Bool.and_eq_true, Bool.not_eq_true'] at hfree
  exact hidle hfree.left

end Sys2Proof.Machine

/-! SUPPORT. What is never read before it is written cannot be observed (R124, R157): arrivals, ticks and
power-ons take states that agree on the live items to states that agree on them. -/

namespace Sys2Proof.Machine

/-! ### The live items of the Waveform State -/

/-- Two Waveform States agree on what the mode `m`, on or off, reads: `next` only where a deadline is
followed, `step` only in a running PULSE. -/
structure WaveAgree (m : Mode) (onOff : Bool) (w v : Wave) : Prop where
  cur : w.cur = v.cur
  actualPeriod : w.actualPeriod = v.actualPeriod
  next : onOff = true → m ≠ .steady → w.next = v.next
  step : onOff = true → m = .pulse → w.step = v.step

section
variable {m : Mode} {onOff : Bool} {w v : Wave} (d : Nat) (I : Byte) (now : Clock)

/-- `reconfigure` writes every live item but STEADY's `cur` (R112 to R115). -/
theorem waveAgree_reconfigureWave (P : U32) (hcur : w.cur = v.cur) :
    WaveAgree m onOff (reconfigureWave d m P I now w) (reconfigureWave d m P I now v) := by
  cases m with
  | steady => exact ⟨hcur, rfl, fun _ h => absurd rfl h, nofun⟩
  | blink => exact ⟨rfl, rfl, fun _ _ => rfl, nofun⟩
  | pulse => exact ⟨rfl, rfl, fun _ _ => rfl, fun _ _ => rfl⟩

theorem WaveAgree.tickBlink (h : WaveAgree .blink true w v) :
    WaveAgree .blink true (tickBlink d I now w) (tickBlink d I now v) := by
  have hnext : w.next = v.next := h.next rfl (by decide)
  cases hp : passed now w.next with
  | false =>
    rwa [tickBlink_of_not_passed d I hp, tickBlink_of_not_passed d I (hnext ▸ hp)]
  | true =>
    rw [tickBlink_of_passed d I hp, tickBlink_of_passed d I (hnext ▸ hp), h.cur, h.actualPeriod]
    exact ⟨rfl, rfl, fun _ _ => rfl, nofun⟩

/-- A running PULSE reads all four items, so Waveform States that agree there are equal. -/
theorem WaveAgree.eq_of_pulse (h : WaveAgree .pulse true w v) : w = v := by
  obtain ⟨hcur, hper, hnext, hstep⟩ := h
  cases w
  cases v
  simp_all

/-- `wtick` reads no item that is not live. -/
theorem WaveAgree.wtickWave (h : WaveAgree m onOff w v) :
    WaveAgree m onOff (wtickWave d m onOff I now w) (wtickWave d m onOff I now v) := by
  cases onOff with
  | false => exact ⟨rfl, h.actualPeriod, nofun, nofun⟩
  | true =>
    cases m with
    | steady => exact ⟨rfl, h.actualPeriod, fun _ hm => absurd rfl hm, nofun⟩
    | blink => exact h.tickBlink d I now
    | pulse =>
      rw [h.eq_of_pulse]
      exact ⟨rfl, rfl, fun _ _ => rfl, fun _ _ => rfl⟩

end

/-- `onOff = 1` in a mode other than STEADY is what follows a deadline (R124). -/
theorem followsDeadline_iff {rf : RegFile} {m : Mode} (hm : modeOf (getMode rf) = some m) :
    followsDeadline rf ↔ getOnOff rf = true ∧ m ≠ .steady := by
  cases m <;> simp [followsDeadline, hm]

/-! ### Agreement of states, event by event -/

section
variable {a b : State}

theorem agreeOnLive.rf_eq (h : agreeOnLive a b) : a.rf = b.rf := h.left

/-- The schedule can be replaced in both. -/
theorem agreeOnLive.withEvents (h : agreeOnLive a b) (es : List Event) :
    agreeOnLive { a with events := es } { b with events := es } := by
  obtain ⟨hrf, htx, hresp, hcur, hper, hpwm, ⟨-, hres, hpor⟩, hlive⟩ := h
  exact ⟨hrf, htx, hresp, hcur, hper, hpwm, ⟨rfl, hres, hpor⟩, hlive⟩

/-- A select writes the index; the payload is not live then. -/
theorem agreeOnLive_latchSelect (h : agreeOnLive a b) (idx : Byte) :
    agreeOnLive (latchSelect idx a) (latchSelect idx b) := by
  obtain ⟨hrf, -, hresp, hcur, hper, hpwm, henv, -, -, hwave⟩ := h
  exact ⟨hrf, rfl, hresp, hcur, hper, hpwm, henv, fun _ => rfl, nofun, hwave⟩

/-- The valid payload after an arrival is the arrival's own bytes, whatever stood there. -/
theorem validPayload_latchWrite_eq (idx : Byte) (bytes : List Byte) (s t : State) :
    validPayload (latchWrite idx bytes s).tx = validPayload (latchWrite idx bytes t).tx := by
  unfold validPayload
  apply List.ext_getElem <;> simp +contextual [payloadWith]

/-- A write of at least one byte writes every item the tick that serves it reads. -/
theorem agreeOnLive_latchWrite (h : agreeOnLive a b) (idx p : Byte) (ps : List Byte) :
    agreeOnLive (latchWrite idx (p :: ps) a) (latchWrite idx (p :: ps) b) := by
  obtain ⟨hrf, -, hresp, hcur, hper, hpwm, henv, -, -, hwave⟩ := h
  exact ⟨hrf, rfl, hresp, hcur, hper, hpwm, henv, fun _ => rfl,
    fun _ => ⟨by simp [payloadWith], validPayload_latchWrite_eq idx (p :: ps) a b⟩, hwave⟩

/-- A read answers the cache, which is live, and leaves nothing pending. -/
theorem agreeOnLive_answerRead (h : agreeOnLive a b) : agreeOnLive (answerRead a) (answerRead b) := by
  obtain ⟨hrf, -, hresp, hcur, hper, hpwm, ⟨hev, hres, hpor⟩, -, -, hwave⟩ := h
  exact ⟨hrf, rfl, hresp, hcur, hper, hpwm,
    ⟨hev, by rw [answerRead_responses, answerRead_responses, hres, hresp], hpor⟩,
    fun hi => absurd rfl hi, nofun, hwave⟩

/-- A power-on takes the free values its number selects, so it reads no other item. -/
theorem agreeOnLive_bootState (h : agreeOnLive a b) : agreeOnLive (bootState a) (bootState b) := by
  obtain ⟨-, -, -, -, -, -, ⟨hev, hres, hpor⟩, -⟩ := h
  have heq : bootState a = bootState b := by simp only [bootState, hev, hres, hpor]
  rw [heq]
  exact ⟨rfl, rfl, rfl, rfl, rfl, rfl, ⟨rfl, rfl, rfl⟩, fun _ => rfl, fun _ => ⟨rfl, rfl⟩,
    fun _ => rfl, fun _ => rfl⟩

/-! ### Agreement across a tick -/

/-- The service phase reads the index and the payload of a pending write alone. -/
theorem rfAfterService_eq_of_agree (h : agreeOnLive a b) : rfAfterService a = rfAfterService b := by
  obtain ⟨hrf, htx, -, -, -, -, -, hidx, hpay, -⟩ := h
  by_cases hw : a.tx.txState = .applyWrite
  · obtain ⟨hp0, hvalid⟩ := hpay hw
    have hindex : a.tx.latchedIndex = b.tx.latchedIndex := hidx (by simp [hw])
    have hreset : isReset a.tx = isReset b.tx := by simp only [isReset, hindex, hp0]
    rw [rfAfterService_of_write hw, rfAfterService_of_write (htx ▸ hw), applyPending, applyPending,
      hreset, hindex, hvalid, hrf]
  · rw [rfAfterService_of_noWrite hw, rfAfterService_of_noWrite (htx ▸ hw), hrf]

theorem respAfterTick_eq_of_agree (h : agreeOnLive a b) : respAfterTick a = respAfterTick b := by
  obtain ⟨hrf, htx, hresp, -, -, -, -, hidx, -⟩ := h
  unfold respAfterTick
  cases hs : a.tx.txState with
  | awaitResponse => rw [← htx, hs, hrf, hidx (by simp [hs])]
  | idle | applyWrite => rw [← htx, hs, hresp]

/-- After the service phase the Waveform States agree on the live items of the CONFIG in force then. -/
theorem waveAgree_waveAfterService (d : Nat) (now : Clock) {m : Mode} {P : U32}
    (h : agreeOnLive a b) (hc : getConfig? (rfAfterService a) = some (m, P)) :
    WaveAgree m (getOnOff (rfAfterService a)) (waveAfterService d m P now a)
      (waveAfterService d m P now b) := by
  have hrfs : rfAfterService a = rfAfterService b := rfAfterService_eq_of_agree h
  obtain ⟨-, htx, -, hcur, hper, -, -, -, -, hnext, hstep⟩ := h
  by_cases hw : a.tx.txState = .applyWrite
  · rw [waveAfterService_of_write hw, waveAfterService_of_write (htx ▸ hw), ← hrfs]
    exact waveAgree_reconfigureWave d _ now P hcur
  · rw [rfAfterService_of_noWrite hw] at hc ⊢
    rw [waveAfterService_of_noWrite hw, waveAfterService_of_noWrite (htx ▸ hw)]
    obtain ⟨hm, -⟩ := getConfig?_eq_some_iff.mp hc
    exact ⟨hcur, hper, fun hon hns => hnext ((followsDeadline_iff hm).mpr ⟨hon, hns⟩),
      fun hon hp => hstep ⟨hon, hp ▸ hm⟩⟩

theorem agreeOnLive_tickResult (d : Nat) (now : Clock) {m : Mode} {P : U32} (h : agreeOnLive a b)
    (hc : getConfig? (rfAfterService a) = some (m, P)) :
    agreeOnLive (tickResult d m P now a) (tickResult d m P now b) := by
  have hrfs : rfAfterService a = rfAfterService b := rfAfterService_eq_of_agree h
  have hresp : respAfterTick a = respAfterTick b := respAfterTick_eq_of_agree h
  obtain ⟨hcur, hper, hnext, hstep⟩ : WaveAgree m (getOnOff (rfAfterService a))
      (waveAfterTick d m P now a) (waveAfterTick d m P now b) := by
    unfold waveAfterTick
    rw [← hrfs]
    exact (waveAgree_waveAfterService d now h hc).wtickWave d _ now
  obtain ⟨hm, -⟩ := getConfig?_eq_some_iff.mp hc
  obtain ⟨-, -, -, -, -, -, henv, -⟩ := h
  refine ⟨hrfs, rfl, hresp, hcur, hper, ?_, henv, fun hi => absurd rfl hi, nofun, fun hf => ?_,
    fun ⟨hon, hp⟩ => ?_⟩
  · rw [tickResult_pwmDuty, tickResult_pwmDuty, hcur]
  · obtain ⟨hon, hns⟩ := (followsDeadline_iff hm).mp hf
    exact hnext hon hns
  · exact hstep hon (Option.some.inj (hm.symm.trans hp))

/-- A tick completes from both or is refused from both. -/
theorem outcomesAgree_idleTick (d : Nat) (now : Clock) (h : agreeOnLive a b) :
    outcomesAgree (idleTick d now a) (idleTick d now b) := by
  rw [idleTick_eq, idleTick_eq, ← rfAfterService_eq_of_agree h]
  cases hc : getConfig? (rfAfterService a) with
  | none => exact rfl
  | some c => exact agreeOnLive_tickResult d now h hc

/-- Every operation keeps the agreement. -/
theorem outcomesAgree_exec (i : Instr) (h : agreeOnLive a b) :
    outcomesAgree (exec i a) (exec i b) := by
  cases i with
  | sel idx => exact agreeOnLive_latchSelect h idx
  | wr1 | wr2 | wr3 | wr4 | rst => exact agreeOnLive_latchWrite h _ _ _
  | dropEmpty | dropOverlong => exact h
  | rd => exact agreeOnLive_answerRead h
  | tick now => exact outcomesAgree_idleTick _ now h
  | por => exact agreeOnLive_bootState h

end

/-- Settles O42: both states run the same event, and each operation keeps the agreement. -/
theorem unreadItemsAreUnobservable : Obligations.UnreadItemsAreUnobservable := by
  intro a b h
  have hev : a.events = b.events := by
    obtain ⟨-, -, -, -, -, -, ⟨hev, -, -⟩, -⟩ := h
    exact hev.symm
  cases he : a.events with
  | nil =>
    rw [step_of_no_events he, step_of_no_events (hev ▸ he)]
    exact h
  | cons e rest =>
    rw [step_of_events he, step_of_events (hev ▸ he)]
    exact outcomesAgree_exec _ (h.withEvents rest)

end Sys2Proof.Machine

/-! SUPPORT. Trajectories over runs of ticks (R121, R122), for every `PHASE_DIV`: what a run of idle
ticks keeps, and the level and the step after each fired event in closed form. -/

namespace Sys2Proof.Machine

/-! ### Runs of ticks with nothing pending -/

/-- Nothing is pending and the block runs in the mode `m` with the intensity `I`. -/
structure Running (m : Mode) (I : Byte) (s : State) : Prop where
  legal : configLegal s.rf
  idle : s.tx.txState = .idle
  on : getOnOff s.rf = true
  mode : modeOf (getMode s.rf) = some m
  intensity : getIntensity s.rf = I

section
variable (d : Nat) {m : Mode} {I : Byte}

/-- An idle tick is `wtick` and the Output Driver. -/
theorem Running.idleTick (now : Clock) {s : State} (h : Running m I s) :
    ∃ t, idleTick d now s = .next t ∧ t.rf = s.rf ∧ t.tx = s.tx ∧
      t.wave = wtickWave d m true I now s.wave ∧ t = odWrite t.wave.cur t := by
  have hnw : s.tx.txState ≠ .applyWrite := by simp [h.idle]
  have hrf : rfAfterService s = s.rf := rfAfterService_of_noWrite hnw
  obtain ⟨m', P, hc⟩ := h.legal.exists_config
  obtain rfl : m' = m := Option.some.inj ((getConfig?_eq_some_iff.mp hc).left.symm.trans h.mode)
  have htx : (toIdle s).tx = s.tx := by rw [toIdle_of_idle h.idle]
  refine ⟨_, idleTick_of_config (hrf ▸ hc), hrf, htx, ?_, rfl⟩
  rw [tickResult_wave, waveAfterTick, waveAfterService_of_noWrite hnw, hrf, h.on, h.intensity]

/-- A tick that answers `t` fires its event or not, and the rest of the run goes on from `t`. -/
theorem eventsFired_cons_of_next {now : Clock} {s t : State} (rest : List Clock)
    (h : idleTick d now s = .next t) :
    eventsFired d (now :: rest) s =
      (if passed now s.wave.next then 1 else 0) + eventsFired d rest t := by
  simp only [eventsFired, h]

/-- In BLINK and PULSE a tick before the deadline leaves the Waveform State. -/
theorem wtickWave_of_not_passed {now : Clock} {w : Wave} (hm : m ≠ .steady)
    (hp : passed now w.next = false) : wtickWave d m true I now w = w := by
  cases m with
  | steady => exact absurd rfl hm
  | blink => exact tickBlink_of_not_passed d I hp
  | pulse => exact tickPulse_of_not_passed d I hp

/-- The induction of every trajectory: if each fired event leads from `At k` to `At (k + 1)`, a run of
ticks leads from `At k` to `At (k + n)`, `n` being the events it fires. -/
theorem tickRun_trajectory {At : Nat → Wave → Prop} (hm : m ≠ .steady)
    (hfire : ∀ (k : Nat) (now : Clock) (w : Wave), passed now w.next = true → At k w →
      At (k + 1) (wtickWave d m true I now w))
    (nows : List Clock) {s : State} {k : Nat} (hrun : Running m I s) (hat : At k s.wave) :
    ∃ t, tickRun d nows s = .next t ∧ t.rf = s.rf ∧ t.tx = s.tx ∧
      At (k + eventsFired d nows s) t.wave ∧ (nows ≠ [] → t = odWrite t.wave.cur t) := by
  induction nows generalizing s k with
  | nil => exact ⟨s, rfl, rfl, rfl, hat, fun h => absurd rfl h⟩
  | cons now rest ih =>
    obtain ⟨u, hu, hrf, htx, hwave, hod⟩ := hrun.idleTick d now
    have hrun' : Running m I u := by
      obtain ⟨hlegal, hidle, hon, hmode, hI⟩ := hrun
      exact ⟨hrf ▸ hlegal, htx ▸ hidle, hrf ▸ hon, hrf ▸ hmode, hrf ▸ hI⟩
    have hat' : At (k + if passed now s.wave.next then 1 else 0) u.wave := by
      rw [hwave]
      cases hp : passed now s.wave.next with
      | false => rwa [wtickWave_of_not_passed d hm hp]
      | true => exact hfire k now s.wave hp hat
    obtain ⟨t, ht, hrf', htx', hend, hod'⟩ := ih hrun' hat'
    refine ⟨t, ?_, hrf'.trans hrf, htx'.trans htx, ?_, fun _ => ?_⟩
    · rw [tickRun, hu]
      exact ht
    · rwa [eventsFired_cons_of_next d rest hu, ← Nat.add_assoc]
    · cases rest with
      | nil =>
        obtain rfl : u = t := Host.Outcome.next.inj ht
        exact hod
      | cons => exact hod' (by simp)

end

/-- What the Output Driver puts out of a level in `0..255` is that level. -/
theorem pwmDuty_of_level {t : State} {n : Nat} (hod : t = odWrite t.wave.cur t)
    (hcur : t.wave.cur.toInt = n) (hn : n ≤ 255) : t.pwmDuty.toNat = n := by
  have hpwm := odWrite_toNat (v := t.wave.cur) (by omega) (by omega) t
  rw [← hod, hcur] at hpwm
  exact Int.ofNat_inj.mp hpwm

/-! ### BLINK (R122) -/

/-- `cur` is the level after event `k`. -/
def BlinkAt (I : Byte) (k : Nat) (w : Wave) : Prop := w.cur.toInt = blinkLevel I.toNat k

theorem blinkLevel_le (I k : Nat) : blinkLevel I k ≤ I := by
  unfold blinkLevel
  split <;> omega

theorem blinkLevel_succ (I k : Nat) :
    blinkLevel I (k + 1) = if blinkLevel I k = 0 then I else 0 := by
  unfold blinkLevel
  obtain hk | hk := Nat.mod_two_eq_zero_or_one k
  · simp [Nat.add_mod, hk]
  · by_cases hI : I = 0 <;> simp [Nat.add_mod, hk, hI]

/-- A fired event swaps the two levels. -/
theorem blinkAt_tickBlink (d : Nat) {I : Byte} {k : Nat} {now : Clock} {w : Wave}
    (hp : passed now w.next = true) (h : BlinkAt I k w) :
    BlinkAt I (k + 1) (tickBlink d I now w) := by
  have hzero : w.cur = 0 ↔ blinkLevel I.toNat k = 0 := by
    rw [← BitVec.toInt_inj, h]
    exact Int.natCast_eq_zero
  unfold BlinkAt
  rw [tickBlink_of_passed d I hp, blinkLevel_succ, apply_ite BitVec.toInt, intensity16_toInt,
    if_congr hzero rfl rfl]
  split <;> rfl

/-- Settles O47: every fired event swaps the levels, so their parity gives the level. -/
theorem blinkTrajectory : Obligations.BlinkTrajectory := by
  intro d nows s hlegal hidle hon hm hcur
  have hstart : BlinkAt (getIntensity s.rf) 0 s.wave := by
    unfold BlinkAt
    rw [hcur]
    rfl
  obtain ⟨t, ht, hrf, htx, hlevel, hod⟩ :=
    tickRun_trajectory d (m := .blink) (At := BlinkAt (getIntensity s.rf)) (by decide)
      (fun _ _ _ hp h => blinkAt_tickBlink d hp h) nows ⟨hlegal, hidle, hon, hm, rfl⟩ hstart
  rw [Nat.zero_add] at hlevel
  have hle := blinkLevel_le (getIntensity s.rf).toNat (eventsFired d nows s)
  have hbyte := (getIntensity s.rf).isLt
  exact ⟨t, ht, hrf, htx, hlevel, fun hne => pwmDuty_of_level (hod hne) hlevel (by omega)⟩

/-! ### PULSE (R121): the phase of an event in its cycle of `2q` events -/

section
variable {I : Nat}

/-- `q = ceil(I / s)` is the first event whose climb reaches `I`. -/
theorem pulseTurn_le_iff (hs : 0 < I / 16) {j : Nat} : pulseTurn I ≤ j ↔ I ≤ j * (I / 16) := by
  rw [Nat.mul_comm]
  exact ceilDiv_le_iff_le_mul hs

theorem pulseTurn_pos (hs : 0 < I / 16) : 0 < pulseTurn I := by
  have h := (pulseTurn_le_iff (j := 0) hs).not
  omega

/-- The phase after the next event. -/
theorem phase_succ (q k : Nat) (hq : 0 < q) :
    (k + 1) % (2 * q) = if k % (2 * q) + 1 = 2 * q then 0 else k % (2 * q) + 1 := by
  have hlt := Nat.mod_lt k (show 2 * q > 0 by omega)
  rw [← Nat.mod_add_mod]
  split
  next h => rw [h, Nat.mod_self]
  next h => exact Nat.mod_eq_of_lt (by omega)

variable {k i : Nat}

/-- The level on the way up, the turn included. -/
theorem pulseLevel_up (hs : 0 < I / 16) (hk : k % (2 * pulseTurn I) = i) (hi : i ≤ pulseTurn I) :
    pulseLevel I k = min (i * (I / 16)) I := by
  rw [pulseLevel, if_neg (by omega)]
  simp only [hk, if_pos hi]

/-- The level on the way down, the turn included. -/
theorem pulseLevel_down (hs : 0 < I / 16) (hk : k % (2 * pulseTurn I) = pulseTurn I + i) :
    pulseLevel I k = I - i * (I / 16) := by
  cases i with
  | zero =>
    have htop : I ≤ pulseTurn I * (I / 16) := (pulseTurn_le_iff hs).mp le_rfl
    rw [pulseLevel_up hs hk le_rfl, Nat.add_zero, min_eq_right htop, Nat.zero_mul, Nat.sub_zero]
  | succ i =>
    rw [pulseLevel, if_neg (by omega)]
    simp only [hk, if_neg (show ¬ pulseTurn I + (i + 1) ≤ pulseTurn I by omega),
      Nat.add_sub_cancel_left]

theorem pulseStepAt_up (hk : k % (2 * pulseTurn I) < pulseTurn I) :
    pulseStepAt I k = ((I / 16 : Nat) : Int) := if_pos hk

theorem pulseStepAt_down (hk : pulseTurn I ≤ k % (2 * pulseTurn I)) :
    pulseStepAt I k = -((I / 16 : Nat) : Int) := if_neg (Nat.not_lt.mpr hk)

theorem pulseLevel_le (I k : Nat) : pulseLevel I k ≤ I := by
  unfold pulseLevel
  dsimp only
  split
  · exact Nat.zero_le I
  · split
    · exact Nat.min_le_right _ _
    · exact Nat.sub_le _ _

/-- One event of the closed form (R121): at the top the level is `I` and the step turns, at the bottom
the level is 0 and the step turns, between them the level moves by the step. -/
inductive PulseEvent (I k : Nat) : Prop where
  | top (hsum : (I : Int) ≤ pulseLevel I k + pulseStepAt I k) (hlevel : pulseLevel I (k + 1) = I)
      (hstep : pulseStepAt I (k + 1) = -pulseStepAt I k)
  | bottom (hI : pulseLevel I k + pulseStepAt I k < I) (h0 : pulseLevel I k + pulseStepAt I k ≤ 0)
      (hlevel : pulseLevel I (k + 1) = 0) (hstep : pulseStepAt I (k + 1) = -pulseStepAt I k)
  | between (hI : pulseLevel I k + pulseStepAt I k < I) (h0 : 0 < pulseLevel I k + pulseStepAt I k)
      (hlevel : (pulseLevel I (k + 1) : Int) = pulseLevel I k + pulseStepAt I k)
      (hstep : pulseStepAt I (k + 1) = pulseStepAt I k)

/-- An event on the way up ends below `I`, or at the turn in `I`. -/
theorem pulseEvent_up (hs : 0 < I / 16) (hi : k % (2 * pulseTurn I) < pulseTurn I) :
    PulseEvent I k := by
  generalize hk : k % (2 * pulseTurn I) = i at hi
  have hnext : (k + 1) % (2 * pulseTurn I) = i + 1 := by
    rw [phase_succ _ _ (pulseTurn_pos hs), hk, if_neg (by omega)]
  have hbelow : ¬ I ≤ i * (I / 16) := (pulseTurn_le_iff hs).not.mp (by omega)
  have hlevel : pulseLevel I k = i * (I / 16) := by
    rw [pulseLevel_up hs hk hi.le, min_eq_left (by omega)]
  have hlevel' : pulseLevel I (k + 1) = min (i * (I / 16) + I / 16) I := by
    rw [pulseLevel_up hs hnext hi, Nat.succ_mul]
  have hstep : pulseStepAt I k = ((I / 16 : Nat) : Int) := pulseStepAt_up (hk ▸ hi)
  have hturn := pulseTurn_le_iff (j := i + 1) hs
  rw [Nat.succ_mul] at hturn
  by_cases hq : pulseTurn I ≤ i + 1
  · have hstep' : pulseStepAt I (k + 1) = -((I / 16 : Nat) : Int) := pulseStepAt_down (hnext ▸ hq)
    exact .top (by omega) (by omega) (by omega)
  · have hstep' : pulseStepAt I (k + 1) = ((I / 16 : Nat) : Int) :=
      pulseStepAt_up (hnext ▸ Nat.lt_of_not_le hq)
    exact .between (by omega) (by omega) (by omega) (by omega)

/-- An event on the way down ends above 0, or at the cycle's end in 0. -/
theorem pulseEvent_down (hs : 0 < I / 16) (hi : pulseTurn I ≤ k % (2 * pulseTurn I)) :
    PulseEvent I k := by
  have hpos : 0 < pulseTurn I := pulseTurn_pos hs
  have hlt : k % (2 * pulseTurn I) < 2 * pulseTurn I := Nat.mod_lt k (by omega)
  obtain ⟨i, hk⟩ := Nat.exists_eq_add_of_le hi
  have hlevel : pulseLevel I k = I - i * (I / 16) := pulseLevel_down hs hk
  have hbelow : ¬ I ≤ i * (I / 16) := (pulseTurn_le_iff hs).not.mp (by omega)
  have hstep : pulseStepAt I k = -((I / 16 : Nat) : Int) := pulseStepAt_down hi
  have hturn := pulseTurn_le_iff (j := i + 1) hs
  rw [Nat.succ_mul] at hturn
  have hnext := phase_succ (pulseTurn I) k hpos
  by_cases hq : pulseTurn I ≤ i + 1
  · rw [if_pos (by omega)] at hnext
    have hlevel' : pulseLevel I (k + 1) = 0 := by
      rw [pulseLevel_up hs hnext hpos.le, Nat.zero_mul, Nat.zero_min]
    have hstep' : pulseStepAt I (k + 1) = ((I / 16 : Nat) : Int) := pulseStepAt_up (hnext ▸ hpos)
    exact .bottom (by omega) (by omega) hlevel' (by omega)
  · rw [if_neg (by omega), hk, Nat.add_assoc] at hnext
    have hlevel' : pulseLevel I (k + 1) = I - (i * (I / 16) + I / 16) := by
      rw [pulseLevel_down hs hnext, Nat.succ_mul]
    have hstep' : pulseStepAt I (k + 1) = -((I / 16 : Nat) : Int) :=
      pulseStepAt_down (hnext ▸ Nat.le_add_right _ _)
    exact .between (by omega) (by omega) (by omega) (by omega)

/-- An intensity below 16 has step 0, so the level stays 0. -/
theorem pulseEvent_of_zero_step (hs : I / 16 = 0) : PulseEvent I k := by
  have hlevel (k : Nat) : pulseLevel I k = 0 := if_pos hs
  have hstep (k : Nat) : pulseStepAt I k = 0 := by simp [pulseStepAt, hs]
  obtain rfl | hI := Nat.eq_zero_or_pos I
  · exact .top (by simp [hlevel, hstep]) (hlevel _) (by simp [hstep])
  · exact .bottom (by simpa [hlevel, hstep]) (by simp [hlevel, hstep]) (hlevel _) (by simp [hstep])

theorem pulseEvent (I k : Nat) : PulseEvent I k := by
  obtain hs | hs := Nat.eq_zero_or_pos (I / 16)
  · exact pulseEvent_of_zero_step hs
  · obtain hi | hi := Nat.lt_or_ge (k % (2 * pulseTurn I)) (pulseTurn I)
    · exact pulseEvent_up hs hi
    · exact pulseEvent_down hs hi

end

/-- `cur` and `step` are those after event `k`. -/
def PulseAt (I : Byte) (k : Nat) (w : Wave) : Prop :=
  w.cur.toInt = pulseLevel I.toNat k ∧ w.step.toInt = pulseStepAt I.toNat k

/-- A step of the closed form is small, so its flip is exact. -/
theorem PulseAt.neg_step {I : Byte} {k : Nat} {w : Wave} (h : PulseAt I k w) :
    (-w.step).toInt = -pulseStepAt I.toNat k := by
  have hI := I.isLt
  have hsmall : -15 ≤ pulseStepAt I.toNat k ∧ pulseStepAt I.toNat k ≤ 15 := by
    unfold pulseStepAt
    split <;> omega
  rw [BitVec.toInt_neg, h.right, Int.bmod_eq_of_le] <;> omega

/-- The machine's step and bounce (R120) are the closed form's. -/
theorem pulseAt_pulseBounce {I : Byte} {k : Nat} {w : Wave} (h : PulseAt I k w) :
    PulseAt I (k + 1) (pulseBounce I w) := by
  have hneg := h.neg_step
  obtain ⟨hcur, hst⟩ := h
  have hsum : w.cur.toInt + w.step.toInt = pulseLevel I.toNat k + pulseStepAt I.toNat k := by
    rw [hcur, hst]
  obtain ⟨hI, hlevel, hstep⟩ | ⟨hI, h0, hlevel, hstep⟩ | ⟨hI, h0, hlevel, hstep⟩ :=
    pulseEvent I.toNat k <;> rw [← hsum] at hI
  · rw [pulseBounce_upper hI]
    exact ⟨by rw [intensity16_toInt, hlevel], hneg.trans hstep.symm⟩
  · rw [← hsum] at h0
    rw [pulseBounce_lower hI h0]
    exact ⟨by rw [hlevel]; rfl, hneg.trans hstep.symm⟩
  · rw [← hsum] at h0 hlevel
    rw [pulseBounce_between hI h0]
    exact ⟨(ofInt_toInt_of_lt_intensity hI h0).trans hlevel.symm, hst.trans hstep.symm⟩

/-- A fired event advances the closed form by one. -/
theorem pulseAt_tickPulse (d : Nat) {I : Byte} {k : Nat} {now : Clock} {w : Wave}
    (hp : passed now w.next = true) (h : PulseAt I k w) :
    PulseAt I (k + 1) (tickPulse d I now w) := by
  rw [tickPulse_of_passed d I hp]
  exact pulseAt_pulseBounce h

/-- Event 0 is the fresh ramp: level 0, step up. -/
theorem pulseAt_zero {I : Byte} {w : Wave} (hcur : w.cur = 0)
    (hstep : w.step = BitVec.ofNat 16 (I.toNat / 16)) : PulseAt I 0 w := by
  unfold PulseAt pulseLevel pulseStepAt
  rw [hcur, hstep, pulseStep_toInt]
  obtain hs | hs := Nat.eq_zero_or_pos (I.toNat / 16)
  · simp [hs]
  · simp [pulseTurn_pos hs]

/-- Settles O46: the number of fired events is the place in the closed form. -/
theorem pulseTrajectory : Obligations.PulseTrajectory := by
  refine ⟨exec_tick, fun d nows s hlegal hidle hon hm hcur hstep => ?_⟩
  obtain ⟨t, ht, hrf, htx, hat, hod⟩ :=
    tickRun_trajectory d (m := .pulse) (At := PulseAt (getIntensity s.rf)) (by decide)
      (fun _ _ _ hp h => pulseAt_tickPulse d hp h) nows ⟨hlegal, hidle, hon, hm, rfl⟩
      (pulseAt_zero hcur hstep)
  rw [Nat.zero_add] at hat
  obtain ⟨hlevel, hstepAt⟩ := hat
  have hle := pulseLevel_le (getIntensity s.rf).toNat (eventsFired d nows s)
  have hbyte := (getIntensity s.rf).isLt
  exact ⟨t, ht, hrf, htx, hlevel, hstepAt,
    fun hne => pwmDuty_of_level (hod hne) hlevel (by omega), hle⟩

end Sys2Proof.Machine

/-! SUPPORT. The clock comparison in true microseconds (R109, R126, U7), and along every timed schedule
under the premises of R166. -/

namespace Sys2Proof.Machine

/-! ### `passed` in true time -/

/-- Only the distance counts. -/
theorem passed_add_left (t now d : Clock) : passed (t + now) (t + d) = passed now d := by
  unfold passed
  rw [add_sub_add_left_eq_sub]

/-- Up to half the circle before the deadline and the horizon after it, the comparison of the samples is
that of the true instants. -/
theorem passed_ofNat_iff {now D : Nat} (hlow : D ≤ now + 2 ^ 31) (hhigh : now ≤ D + (2 ^ 31 - 1)) :
    passed (BitVec.ofNat 32 now) (BitVec.ofNat 32 D) = true ↔ D < now := by
  have hnow : BitVec.ofNat 32 now = BitVec.ofNat 32 D + BitVec.ofInt 32 (now - D) := by
    rw [← BitVec.ofInt_natCast, ← BitVec.ofInt_natCast, ← BitVec.ofInt_add, add_sub_cancel]
  rw [hnow, passed_add_iff _ (by omega) (by omega), sub_pos, Int.ofNat_lt]

/-- Settles O20: deadline and sample as true distances from the start time. -/
theorem eventSpacingLowerBound : Obligations.EventSpacingLowerBound := by
  intro t0 iv e hiv he
  exact (passed_add_left t0 _ _).symm ▸ passed_ofNat_iff (by omega) (by omega)

/-- Settles O49: the distance modulo `2^32` is in the upper half of the circle, or 0, until the counter
has come round. -/
theorem overdueDeadlineStallsUntilTheCounterComesRound :
    Obligations.OverdueDeadlineStallsUntilTheCounterComesRound := by
  intro d e
  have hpassed : passed (d + BitVec.ofNat 32 e) d = true ↔
      1 ≤ e % 2 ^ 32 ∧ e % 2 ^ 32 ≤ 2 ^ 31 - 1 := by
    rw [passed_iff_toNat, add_sub_cancel_left]
    exact Iff.rfl
  have hhorizon : horizon = 2 ^ 31 - 1 := rfl
  rw [← Bool.not_eq_true, hpassed]
  omega

/-! ### The deadline a tick leaves -/

/-- The event interval of a mode for the period `P` (R110); STEADY schedules nothing. -/
def modeInterval (m : Mode) (P : U32) : Nat :=
  match m with
  | .steady => 0
  | .blink => blinkInterval 4 P
  | .pulse => pulseInterval 4 P

theorem eventInterval_of_mode {s : State} {m : Mode} (hm : modeOf (getMode s.rf) = some m) :
    eventInterval s = modeInterval m s.wave.actualPeriod := by
  cases m <;> simp [eventInterval, modeInterval, hm]

section
variable {m : Mode} (I : Byte) (now : Clock) {w : Wave}

theorem reconfigureWave_next (P : U32) (hm : m ≠ .steady) :
    (reconfigureWave 4 m P I now w).next = deadline now (modeInterval m P) := by
  cases m with
  | steady => exact absurd rfl hm
  | blink | pulse => rfl

theorem wtickWave_next_of_passed {now : Clock} (hm : m ≠ .steady) (hp : passed now w.next = true) :
    (wtickWave 4 m true I now w).next = deadline now (modeInterval m w.actualPeriod) := by
  cases m with
  | steady => exact absurd rfl hm
  | blink => exact congrArg Wave.next (tickBlink_of_passed 4 I hp)
  | pulse => exact congrArg Wave.next (tickPulse_of_passed 4 I hp)

end

section
variable {s t : State}

/-- A tick that ends following a deadline has set a new one, when it served a write or found the old one
passed, and otherwise followed the old one already. -/
theorem exec_tick_next {now : Clock} (h : configLegal s.rf) (ht : exec (.tick now) s = .next t)
    (hf : followsDeadline t.rf) :
    ((s.tx.txState = .applyWrite ∨ passed now s.wave.next = true) ∧
        t.wave.next = deadline now (eventInterval t)) ∨
      (¬ (s.tx.txState = .applyWrite ∨ passed now s.wave.next = true) ∧
        followsDeadline s.rf ∧ t.wave.next = s.wave.next) := by
  by_cases hw : s.tx.txState = .applyWrite
  · obtain ⟨m, P, t', ht', hm, hP, hwave, -⟩ := exec_tick_of_write now h hw
    obtain rfl : t = t' := Host.Outcome.next.inj (ht.symm.trans ht')
    obtain ⟨-, hns⟩ := (followsDeadline_iff hm).mp hf
    rw [wtickWave_reconfigureWave P _ _ now _ hns (periodOf_le hP)] at hwave
    refine .inl ⟨.inl hw, ?_⟩
    rw [eventInterval_of_mode hm, hwave, reconfigureWave_next _ now P hns,
      reconfigureWave_actualPeriod]
  · obtain ⟨m, t', hm, ht', ⟨hrf, -⟩, hwave⟩ := exec_tick_of_noWrite now h hw
    obtain rfl : t = t' := Host.Outcome.next.inj (ht.symm.trans ht')
    rw [hrf] at hf
    obtain ⟨hon, hns⟩ := (followsDeadline_iff hm).mp hf
    rw [hon] at hwave
    cases hp : passed now s.wave.next with
    | false =>
      rw [wtickWave_of_not_passed 4 hns hp] at hwave
      exact .inr ⟨by simp [hw], hf, congrArg Wave.next hwave⟩
    | true =>
      refine .inl ⟨.inr rfl, ?_⟩
      rw [eventInterval_of_mode (hrf ▸ hm), hwave, wtickWave_next_of_passed _ hns hp,
        wtickWave_actualPeriod]

/-! ### The deadline through the events of a timed schedule -/

variable {D start : Nat} {x : Timed} {rest : List Event}

/-- Where the Register File and the deadline stay, so does the instant the deadline denotes. -/
theorem denotesDeadline_of_eq {now : Nat} (h : denotesDeadline D start s) (hnow : start ≤ now)
    (hrf : t.rf = s.rf) (hwave : t.wave = s.wave) : denotesDeadline D now t := by
  intro hf
  obtain ⟨hnext, hD⟩ := h (hrf ▸ hf)
  exact ⟨hwave ▸ hnext, by omega⟩

theorem not_followsDeadline_resetVector : ¬ followsDeadline Config.resetVector := by
  obtain ⟨-, -, -, -, hmode, -⟩ := resetVector_fields
  simp [followsDeadline_iff hmode]

/-- Every event leaves a deadline that denotes the instant `deadlineAfter` gives it. -/
theorem denotesDeadline_step (hinv : Inv s) (he : s.events = x.2 :: rest)
    (hden : denotesDeadline D start s) (hstart : start ≤ x.1) (hsample : samplesTheCounter x = true)
    (ht : step s = .next t) : denotesDeadline (deadlineAfter D x s t) x.1 t := by
  obtain ⟨time, e⟩ := x
  obtain ⟨hrx, hrq, -⟩ := contextsWriteOnlyWhatTheyOwn s t rest
  cases e with
  | rx bytes =>
    obtain ⟨hrf, hwave, -⟩ := hrx bytes he ht
    exact denotesDeadline_of_eq hden hstart hrf hwave
  | rq =>
    obtain ⟨hrf, hwave, -⟩ := hrq he ht
    exact denotesDeadline_of_eq hden hstart hrf hwave
  | por =>
    rw [step_of_events he] at ht
    obtain rfl : bootState { s with events := rest } = t := Host.Outcome.next.inj ht
    intro hf
    rw [bootState_rf] at hf
    exact absurd hf not_followsDeadline_resetVector
  | tick now =>
    obtain rfl : now = BitVec.ofNat 32 time := by simpa [samplesTheCounter] using hsample
    intro hf
    have hle : eventInterval t ≤ 1000000 := by
      obtain ⟨-, hper, -⟩ := step_keeps_inv hinv ht
      exact eventInterval_le hper
    rw [step_of_events he] at ht
    rw [deadlineAfter_tick]
    obtain ⟨hset, hnext⟩ | ⟨hkept, hfs, hnext⟩ :=
      exec_tick_next (s := { s with events := rest }) hinv.legal ht hf
    · rw [if_pos hset, hnext]
      exact ⟨(BitVec.ofNat_add time (eventInterval t)).symm, by omega⟩
    · rw [if_neg hkept, hnext]
      obtain ⟨hold, hD⟩ := hden hfs
      exact ⟨hold, by omega⟩

/-- R126: a tick in time compares truly with a deadline it follows. -/
theorem comparesTruly_of_tickInTime (hden : denotesDeadline D start s) (hstart : start ≤ x.1)
    (hsample : samplesTheCounter x = true) (htime : tickInTime D x s = true) :
    comparesTruly D x s = true := by
  obtain ⟨time, e⟩ := x
  cases e with
  | rx | rq | por => rfl
  | tick now =>
    obtain rfl : now = BitVec.ofNat 32 time := by simpa [samplesTheCounter] using hsample
    by_cases hf : followsDeadline s.rf
    · obtain ⟨hnext, hD⟩ := hden hf
      have hlate : time ≤ D + horizon := by simpa [tickInTime, hf] using htime
      have htrue : passed (BitVec.ofNat 32 time) s.wave.next = true ↔ D < time :=
        hnext ▸ passed_ofNat_iff (by omega) hlate
      simp [comparesTruly, Bool.eq_iff_iff.mpr (htrue.trans decide_eq_true_iff.symm)]
    · simp [comparesTruly, hf]

end

/-- Settles O48, by induction on the schedule: each event finds a deadline that denotes its true instant,
compares truly, and leaves such a deadline to the next. -/
theorem comparisonsAreTrueUnderTheClockPremises :
    Obligations.ComparisonsAreTrueUnderTheClockPremises := by
  intro D start sched
  induction sched generalizing D start with
  | nil => exact fun _ _ _ _ _ _ => rfl
  | cons x rest ih =>
    rintro s hinv he hstart hden ⟨⟨hmono, hsample⟩, htime⟩
    rw [List.pairwise_cons] at hmono
    rw [List.forall_mem_cons] at hsample hstart
    obtain ⟨t, ht⟩ := step_completes hinv.legal
    rw [alongRun_cons_of_next _ _ _ _ _ _ ht, Bool.and_eq_true] at htime ⊢
    have hev : t.events = rest.map Prod.snd := step_events he ht
    exact ⟨comparesTruly_of_tickInTime hden hstart.left hsample.left htime.left,
      ih _ x.1 t (step_keeps_inv hinv ht) hev hmono.left
        (denotesDeadline_step hinv he hden hstart.left hsample.left ht)
        ⟨⟨hmono.right, hsample.right⟩, htime.right⟩⟩

end Sys2Proof.Machine

/-! SUPPORT. The Register File read back: by index (R43, R85), by field (R82), and as the
pseudo-operations of R75 leave it; the parameters' tables (R27, R123); the payload places an arrival
keeps. -/

namespace Sys2Proof.Machine

/-! ### By index -/

/-- Settles O14: a store changes one byte, and both indices are clamped to name one. -/
theorem registerReadAfterWrite : Obligations.RegisterReadAfterWrite := by
  intro rf i j v
  have heff : effective i = effective j ↔ min i 3 = min j 3 := Fin.ext_iff
  split
  next h =>
    rw [heff.mpr h]
    exact rfSet_getElem_effective (heff.mpr h) rf v
  next h => exact rfSet_getElem_of_effective_ne (heff.not.mpr h) rf v

/-! ### By field -/

/-- A legal mode is its own clamp. -/
theorem clampMode_of_le {m : BitVec 2} (h : m.toNat ≤ 2) : clampMode m = m :=
  BitVec.eq_of_toNat_eq (by rw [clampMode_toNat, min_eq_left h])

/-- A legal period index is its own clamp. -/
theorem clampPeriod_of_le {p : BitVec 4} (h : p.toNat ≤ 9) : clampPeriod p = p :=
  BitVec.eq_of_toNat_eq (by rw [clampPeriod_toNat, min_eq_left h])

/-- What a store of CONFIG's fields leaves in the byte. -/
theorem sanitise_packConfig (g m : BitVec 2) (p : BitVec 4) :
    sanitise 2 (packConfig g m p) = packConfig g (clampMode m) (clampPeriod p) := by
  simp [sanitise_config]

section
variable (rf : RegFile) (n : Nat)

theorem setPeriodField_config (h : (getMode rf).toNat ≤ 2) :
    (setPeriodField n rf)[2] =
      packConfig (configUnused rf[2]) (getMode rf) (clampPeriod (BitVec.ofNat 4 n)) := by
  rw [← clampMode_of_le h]
  exact (rfSet_getElem_effective (j := 2) rfl rf _).trans (sanitise_packConfig _ _ _)

theorem setModeField_config (h : (getPeriod rf).toNat ≤ 9) :
    (setModeField n rf)[2] =
      packConfig (configUnused rf[2]) (clampMode (BitVec.ofNat 2 n)) (getPeriod rf) := by
  rw [← clampPeriod_of_le h]
  exact (rfSet_getElem_effective (j := 2) rfl rf _).trans (sanitise_packConfig _ _ _)

theorem setIntensityField_intensity : (setIntensityField n rf)[1] = BitVec.ofNat 8 n :=
  (rfSet_getElem_effective (j := 1) rfl rf _).trans (sanitise_of_ne (by decide) _)

theorem setOnOffField_ctrl :
    (setOnOffField n rf)[0] = packCtrl (ctrlUnnamed rf[0]) (n % 2 == 1) (resetField rf[0]) :=
  (rfSet_getElem_effective (j := 0) rfl rf _).trans (sanitise_of_ne (by decide) _)

/-- The other bytes of a store below index 4. -/
theorem rfSet_getElem_of_ne {i j : Nat} (hi : i < 4) (hj : j < 4) (h : j ≠ i) (v : Byte) :
    (rfSet rf i v)[j] = rf[j] :=
  (rfSet_getElem rf i v j hj).trans (if_neg (by omega))

end

/-- Settles O15: each setter's byte by its fields, and the frame of a store for the other bytes. -/
theorem fieldSettersReadBack : Obligations.FieldSettersReadBack := by
  rintro rf n ⟨hperiod, hmode⟩
  unfold getPeriod getMode getIntensity getOnOff getReset
  rw [setPeriodField_config rf n hmode, setModeField_config rf n hperiod,
    setIntensityField_intensity, setOnOffField_ctrl]
  refine ⟨by simp, by simp [getMode], by simp, by simp, by simp [getPeriod], by simp, by simp, by simp,
    by simp, by simp, fun j hj => ⟨fun h => ⟨?_, ?_⟩, fun h => ?_, fun h => ?_⟩⟩ <;>
    exact rfSet_getElem_of_ne rf (by decide) hj h _

/-! ### As `setMode` and `setPeriod` leave it (R75) -/

/-- The byte of a legal mode and period is its own sanitised value, spelled by them. -/
theorem sanitise_pseudoConfig {m p : Nat} (hm : m ≤ 2) (hp : p ≤ 9) :
    (modeField (sanitise 2 (BitVec.ofNat 8 (16 * m + p)))).toNat = m ∧
      (periodField (sanitise 2 (BitVec.ofNat 8 (16 * m + p)))).toNat = p := by
  rw [modeField_toNat, periodField_toNat, sanitise_config_toNat, BitVec.toNat_ofNat]
  omega

/-- Settles O16: the index 2 is no reset, and the byte's fields are legal. -/
theorem pseudoConfigWritesStoreBothFields : Obligations.PseudoConfigWritesStoreBothFields := by
  intro m p hm hp
  have hwrite : ¬ resetPattern 2 (BitVec.ofNat 8 (16 * m + p)) := by simp
  exact ⟨if_neg (t := .rst []) hwrite, rfl, sanitise_pseudoConfig hm hp⟩

/-! ### The parameters' tables -/

/-- Settles O17: the ten entries, evaluated. -/
theorem periodTableContents : Obligations.PeriodTableContents := by
  unfold Obligations.PeriodTableContents
  decide

/-- Settles O19: both truncating divisions of the ten entries, evaluated. -/
theorem intervalsOfTheTable : Obligations.IntervalsOfTheTable := by
  unfold Obligations.IntervalsOfTheTable
  decide

/-! ### The payload places an arrival keeps (log 8) -/

/-- A place past the new bytes keeps its old byte. -/
theorem latchWrite_payload_of_le (idx : Byte) {bytes : List Byte} (s : State) {k : Nat}
    (hk : k < 4) (h : bytes.length ≤ k) :
    (latchWrite idx bytes s).tx.payload[k] = s.tx.payload[k] := by
  simp [payloadWith, h]

/-- Settles O10: each place at or above the number of bytes written. -/
theorem payloadPastTheNewBytesIsKept : Obligations.PayloadPastTheNewBytesIsKept := by
  intro idx p0 p1 p2 s t
  refine ⟨fun h => ?_, fun h => ?_, fun h => ?_⟩ <;> obtain rfl := Host.Outcome.next.inj h
  · exact ⟨latchWrite_payload_of_le idx s _ (by simp), latchWrite_payload_of_le idx s _ (by simp),
      latchWrite_payload_of_le idx s _ (by simp)⟩
  · exact ⟨latchWrite_payload_of_le idx s _ (by simp), latchWrite_payload_of_le idx s _ (by simp)⟩
  · exact latchWrite_payload_of_le idx s _ (by simp)

end Sys2Proof.Machine

/-! SUPPORT. The end of a tick (R131, R134, U5), power-on (R155, R161), and the controller's write
scenarios over whole runs (95_test_vectors.md E3, E8). -/

namespace Sys2Proof.Machine

/-! ### The end of a tick -/

/-- Settles O29: the equation of TICK, by whether CONFIG is legal after the service phase. -/
theorem tickIsRefusedExactlyOutOfRange : Obligations.TickIsRefusedExactlyOutOfRange := by
  intro now s
  rw [exec_tick, idleTick_eq]
  cases hc : getConfig? (rfAfterService s) with
  | none => exact ⟨iff_of_true rfl (getConfig?_eq_none_iff.mp hc),
      fun h => absurd h (getConfig?_eq_none_iff.mp hc)⟩
  | some c =>
    have hlegal : configLegal (rfAfterService s) := by
      rw [← getConfig?_isSome_iff, hc, Option.isSome_some]
    exact ⟨iff_of_false nofun (not_not.mpr hlegal), fun _ => ⟨_, rfl, rfl⟩⟩

/-- `wtick` ends with `cur` at 0 when off. -/
theorem waveAfterTick_cur_of_off (d : Nat) (m : Mode) (P : U32) (now : Clock) {s : State}
    (h : getOnOff (rfAfterService s) = false) : (waveAfterTick d m P now s).cur = 0 := by
  rw [waveAfterTick, h, wtickWave_off]

/-- `wtick` ends with `cur` at the intensity when on in STEADY. -/
theorem waveAfterTick_cur_of_steady (d : Nat) (P : U32) (now : Clock) {s : State}
    (h : getOnOff (rfAfterService s) = true) :
    (waveAfterTick d .steady P now s).cur = intensity16 (getIntensity (rfAfterService s)) := by
  rw [waveAfterTick, h, wtickWave_steady, if_pos rfl]

/-- Settles O30: the tick's end meets the invariant, so its `cur` is in range and goes out whole. -/
theorem tickEndGuarantees : Obligations.TickEndGuarantees := by
  intro now s hinv
  obtain ⟨m, P, hc, ht⟩ := exec_tick_of_legal now (configLegal_rfAfterService hinv.legal)
  obtain ⟨hlegal, hper, -, ⟨hnonneg, hle⟩, -⟩ := exec_keeps_inv hinv ht
  have hI := (getIntensity (rfAfterService s)).isLt
  have hpwm := odWrite_toNat hnonneg (by rw [tickResult_rf] at hle; omega) s
  refine ⟨_, ht, rfl, hpwm, fun hoff => ?_, fun hon hm => ?_, hlegal, hper⟩
  · rw [tickResult_pwmDuty, waveAfterTick_cur_of_off _ _ _ _ hoff]
    rfl
  · obtain rfl : m = .steady :=
      Option.some.inj ((getConfig?_eq_some_iff.mp hc).left.symm.trans hm)
    rw [tickResult_pwmDuty, waveAfterTick_cur_of_steady _ _ _ hon]
    exact clamp_intensity16 _

/-! ### Power-on and the invariant -/

/-- Settles O32: `bootState`, read at each item R155 gives. -/
theorem porGivesTheBootState : Obligations.PorGivesTheBootState := fun s =>
  ⟨_, rfl, bootState_rf s, rfl, bootState_actualPeriod s, rfl, rfl, rfl⟩

/-- Settles O34: the boot state is idle, on and STEADY with the intensity 0. -/
theorem firstTickAfterPorOutputsZero : Obligations.FirstTickAfterPorOutputsZero := by
  intro s now rest he
  obtain ⟨-, hon, hintensity, -, hmode, -⟩ := resetVector_fields
  have hrf : (bootState { s with events := rest }).rf = Config.resetVector := bootState_rf _
  obtain ⟨t, ht, -, hpwm, ⟨hfile, -, -, ⟨hevents, -, -⟩, -⟩⟩ :=
    tickSteadyTracksIntensity now (bootState { s with events := rest })
      (hrf ▸ configLegal_resetVector) (by simp) (hrf ▸ hon) (hrf ▸ hmode)
  rw [hrf] at hpwm hfile
  exact ⟨t, (runSteps_succ_of_exec he rfl).trans (runSteps_succ_of_exec (rest := rest) rfl ht),
    hpwm.trans hintensity, hfile, hevents⟩

/-- Settles O35: the reset vector is legal and STEADY, and `cur` is 0. -/
theorem invAtReset : Obligations.InvAtReset :=
  (inv_iff_of_config (s := State.reset) getConfig?_resetVector).mpr
    ⟨Config.resetPeriod_eq, nofun, .of_cur_eq (.inl rfl) nofun⟩

/-- Settles O36: `step_keeps_inv`, by what the event does: an arrival leaves what the invariant reads, a
tick and a power-on end inside it. -/
theorem everyStepKeepsInv : Obligations.EveryStepKeepsInv := fun _ _ => step_keeps_inv

/-! ### A one-byte write and the tick that serves it -/

/-- The service of a one-byte write that is no reset is one store. -/
theorem rfAfterService_latchWrite_byte {idx v : Byte} (hreset : ¬ (idx = 0x00 ∧ v = 0x07))
    (s : State) : rfAfterService (latchWrite idx [v] s) = rfSet s.rf idx.toNat v := by
  have hfirst : (latchWrite idx [v] s).tx.payload[0] = v := by simp [payloadWith]
  rw [rfAfterService_of_store rfl (hfirst.symm ▸ hreset), validPayload_latchWrite idx (by simp)]
  rfl

/-- A one-byte write that is no reset, and the tick that serves it: the file ends with that one store,
and the period is the one CONFIG selects then. -/
theorem runSteps_writeByte {s : State} {idx v : Byte} {now : Clock} {rest : List Event}
    (hlegal : configLegal s.rf) (hreset : ¬ (idx = 0x00 ∧ v = 0x07))
    (he : s.events = .rx [idx, v] :: .tick now :: rest) :
    ∃ t, runSteps 2 s = .next t ∧ t.events = rest ∧ t.rf = rfSet s.rf idx.toNat v ∧
      periodResolved t ∧ t.responses = s.responses := by
  have hrf : rfAfterService (latchWrite idx [v] { s with events := .tick now :: rest }) =
      rfSet s.rf idx.toNat v := rfAfterService_latchWrite_byte hreset _
  obtain ⟨m, P, hc⟩ := (configLegal_rfSet hlegal idx.toNat v).exists_config
  obtain ⟨-, hP⟩ := getConfig?_eq_some_iff.mp hc
  refine ⟨_, .trans (runSteps_of_write he (Nat.zero_le 3)) (runSteps_of_tick rfl (hrf ▸ hc)), rfl,
    hrf, ?_, rfl⟩
  unfold periodResolved
  rw [tickResult_wave, waveAfterTick, wtickWave_actualPeriod, waveAfterService_of_write rfl,
    reconfigureWave_actualPeriod, ← hP, ← hrf]
  rfl

/-- Settles O43: the write's run, then the query's, which reads the byte stored. -/
theorem writeThenReadBack : Obligations.WriteThenReadBack := by
  intro s idx v t1 t2 rest hinv hreset he
  obtain ⟨u, hwrite, hevents, hrf, -, hresponses⟩ := runSteps_writeByte hinv.legal hreset he
  obtain ⟨m, t, -, hquery, hrest, -, -, -, hanswer⟩ :=
    runSteps_query (hrf ▸ configLegal_rfSet hinv.legal _ _) hevents
  have hread : rfGet (rfSet s.rf idx.toNat v) idx.toNat = sanitise (effective idx.toNat) v :=
    (registerReadAfterWrite s.rf _ _ v).trans (if_pos rfl)
  exact ⟨t, (runSteps_add_of_next 3 hwrite).trans hquery, hrest,
    by rw [hanswer, hresponses, hrf, hread]⟩

/-- Settles O44: the byte at index 2 spells the mode and the period, and the tick resolves it. -/
theorem periodWriteResolves : Obligations.PeriodWriteResolves := by
  intro s m p now rest hinv hm hp he
  obtain ⟨t, hrun, hevents, hrf, hper, -⟩ :=
    runSteps_writeByte hinv.legal (by simp) he
  have hconfig : t.rf[2] = sanitise 2 (BitVec.ofNat 8 (16 * m + p)) := by
    rw [hrf]
    exact rfSet_getElem_effective (j := 2) rfl s.rf _
  obtain ⟨hmode, hperiod⟩ := sanitise_pseudoConfig hm hp
  rw [← hconfig] at hmode hperiod
  refine ⟨t, hrun, hevents, hperiod, hmode, ?_⟩
  rw [← hper, periodOf]
  exact congrArg (Config.periodTable[·]?) hperiod.symm

end Sys2Proof.Machine
